-- ==== Sys2Proof/Word.lean ====
section
/-! DEFINITION. The fixed widths of the frame decoder block (00_scope.md R8). -/

namespace Sys2Proof

/-- A byte of the wire frame, of `IN_BUF` or of `PAY_BUF` (R8). -/
abbrev Byte := BitVec 8

/-- A host register, `wdata` or `rdata`: 32 bits (R8, R21). -/
abbrev Word := BitVec 32

/-- A host byte address: 19 bits (R8, R50). -/
abbrev Addr := BitVec 19

end Sys2Proof
end

