-- ==== Sys2Proof/Syntax.lean ====
section
/-! DEFINITION. What a host can present to the FDB, and the operations of spec/opcode_table.json.
`Encoded` is an operation as it reaches the block: the 32-bit command word (30_encoding.md R80) or the bus
tuple (R82). `Instr` is the operation after decoding, one constructor for each mnemonic of the table. -/

namespace Sys2Proof

/-- The `wr` port (R21): 0 is a read, 1 a write. -/
inductive Dir where
  | read
  | write
deriving DecidableEq, Repr

/-- The `size` port (R21): 0 is an 8-bit access, 1 a 32-bit access. -/
inductive Size where
  | byte
  | word
deriving DecidableEq, Repr

/-- A bus operation: the tuple `(wr, size, addr, wdata)` of R82. -/
structure BusOp where
  dir : Dir
  size : Size
  addr : Addr
  wdata : Word
deriving DecidableEq, Repr

/-- The two encoded formats of the opcode table: `CMD` (a command word, R80, which the host delivers by
writing it to `CMD`) and `BUS` (a bus operation, R82). -/
inductive Encoded where
  | cmd (w : Word)
  | bus (op : BusOp)
deriving DecidableEq, Repr

/-- One input of the machine (R20): a host operation, or the reset signal, which is a step of its own. -/
inductive HostInput where
  | rst
  | op (e : Encoded)
deriving DecidableEq, Repr

/-- The operations of spec/opcode_table.json. An operand `w` is the `wdata` of a write; `i` is a byte index
`addr[16:0]` into a buffer window or the upper reserved region; `k` is a 32-bit word index `addr[16:2]`. -/
inductive Instr where
  -- the command words (R80)
  | decodeHeader
  | decodeMessage
  | cmdReserved (w : Word)
  -- 32-bit writes of the registers (R161, R163, R167, R170)
  | w32Cmd (w : Word)
  | w32Status (w : Word)
  | w32BufLen (w : Word)
  | w32Hdr0 (w : Word)
  | w32Hdr1 (w : Word)
  | w32FrameLen (w : Word)
  | w32HdrTag (w : Word)
  | w32PayLen (w : Word)
  | w32TagArg (w : Word)
  | w32Cfg (w : Word)
  | w32Cap (w : Word)
  -- 32-bit reads of the registers (R162, R164 to R166, R168, R169)
  | r32Cmd
  | r32Status
  | r32BufLen
  | r32Hdr0
  | r32Hdr1
  | r32FrameLen
  | r32HdrTag
  | r32PayLen
  | r32TagArg
  | r32Cfg
  | r32Cap
  -- the byte buffers (R171 to R174)
  | w8InBuf (i : BitVec 17) (w : Word)
  | r8InBuf (i : BitVec 17)
  | r8PayBuf (i : BitVec 17)
  | w8PayBuf (i : BitVec 17) (w : Word)
  -- reserved addresses (R175)
  | r8Rsv (i : BitVec 17)
  | w8Rsv (i : BitVec 17) (w : Word)
  | r32Rsv (k : BitVec 15)
  | w32Rsv (k : BitVec 15) (w : Word)
  | r32RsvHi (k : BitVec 15)
  | w32RsvHi (k : BitVec 15) (w : Word)
  -- every access that breaks the width rules (R176)
  | badAccess (dir : Dir) (size : Size) (addr : Addr) (w : Word)
deriving DecidableEq, Repr

end Sys2Proof
end

