-- ==== Sys2Proof/WellFormed.lean ====
section
/-! DEFINITION. Which operand values an operation can carry: those some word of the opcode table decodes to
(spec/opcode_table.json; 30_encoding.md R80, R83). Each check is a `Bool`. -/

namespace Sys2Proof

/-- A word that R80 defines: `DECODE_HEADER` or `DECODE_MESSAGE`. -/
def definedCommand (w : Word) : Bool := w == 0x1 || w == 0x2

/-- A 32-bit word index of the register region that no register of R25 holds: offsets `0x2C` and up. -/
def unlistedWord (k : BitVec 15) : Bool := 11 ≤ k.toNat

/-- The accesses that the width rules of R55 allow. -/
def legalAccess (size : Size) (addr : Addr) : Bool :=
  match size with
  | .byte => 0x20000 ≤ addr.toNat
  | .word => addr.toNat % 4 == 0 && (addr.toNat < 0x20000 || 0x60000 ≤ addr.toNat)

/-- `wdata` is ignored for reads (R82): an operation that reads carries the word 0. -/
def carriedData (dir : Dir) (w : Word) : Bool := dir == .write || w == 0

/-- The operand check of one operation. -/
def Instr.wf : Instr → Bool
  | .cmdReserved w => !definedCommand w
  | .r32Rsv k => unlistedWord k
  | .w32Rsv k _ => unlistedWord k
  | .badAccess dir size addr w => !legalAccess size addr && carriedData dir w
  | .decodeHeader | .decodeMessage
  | .w32Cmd _ | .w32Status _ | .w32BufLen _ | .w32Hdr0 _ | .w32Hdr1 _ | .w32FrameLen _ | .w32HdrTag _
  | .w32PayLen _ | .w32TagArg _ | .w32Cfg _ | .w32Cap _
  | .r32Cmd | .r32Status | .r32BufLen | .r32Hdr0 | .r32Hdr1 | .r32FrameLen | .r32HdrTag
  | .r32PayLen | .r32TagArg | .r32Cfg | .r32Cap
  | .w8InBuf _ _ | .r8InBuf _ | .r8PayBuf _ | .w8PayBuf _ _
  | .r8Rsv _ | .w8Rsv _ _ | .r32RsvHi _ | .w32RsvHi _ _ => true

end Sys2Proof
end

