-- ==== Sys2Proof/Decode.lean ====
section
/-! DEFINITION. The decoder and the encoder: the command word (30_encoding.md R80), the bus operation (R82,
R83), and the rows of spec/opcode_table.json as data. Every host operation decodes (R83: "The decoder is
total"); only a table word of the wrong shape is rejected, by name. -/

namespace Sys2Proof

/-! ### Fields of a host address (20_memory.md R51, R52, R54) -/

/-- The regions of the address map (R51). -/
inductive Region where
  | registers
  | inBuf
  | payBuf
  | upper
deriving DecidableEq, Repr

/-- The region of an address (R51). -/
def regionOf (a : Addr) : Region :=
  if a.toNat < 0x20000 then .registers
  else if a.toNat < 0x40000 then .inBuf
  else if a.toNat < 0x60000 then .payBuf
  else .upper

/-- A multiple of 4 (R55). -/
def isAligned (a : Addr) : Bool := a.toNat % 4 == 0

/-- The byte index `i` inside a 128 KiB window: `SEL[16:0]` (R52, R54). -/
def byteIndex (a : Addr) : BitVec 17 := a.extractLsb' 0 17

/-- The word index `addr[16:2]` inside a 128 KiB window. -/
def wordIndex (a : Addr) : BitVec 15 := a.extractLsb' 2 15

/-- `wdata` as the operation carries it: ignored for reads (R82). -/
def carried (dir : Dir) (w : Word) : Word :=
  match dir with
  | .read => 0
  | .write => w

/-! ### Decoding -/

/-- The command that a word written to `CMD` selects (R80); every word not defined there is reserved (R81). -/
def decodeCommand (w : Word) : Instr :=
  if w = 0x00000001 then .decodeHeader
  else if w = 0x00000002 then .decodeMessage
  else .cmdReserved w

/-- The aligned 32-bit read at word index `k` of the register region (R25, R83 line 1). -/
def decodeRegRead (k : BitVec 15) : Instr :=
  match k.toNat with
  | 0 => .r32Cmd
  | 1 => .r32Status
  | 2 => .r32BufLen
  | 3 => .r32Hdr0
  | 4 => .r32Hdr1
  | 5 => .r32FrameLen
  | 6 => .r32HdrTag
  | 7 => .r32PayLen
  | 8 => .r32TagArg
  | 9 => .r32Cfg
  | 10 => .r32Cap
  | _ => .r32Rsv k

/-- The aligned 32-bit write at word index `k` of the register region (R25, R83 line 1). -/
def decodeRegWrite (k : BitVec 15) (w : Word) : Instr :=
  match k.toNat with
  | 0 => .w32Cmd w
  | 1 => .w32Status w
  | 2 => .w32BufLen w
  | 3 => .w32Hdr0 w
  | 4 => .w32Hdr1 w
  | 5 => .w32FrameLen w
  | 6 => .w32HdrTag w
  | 7 => .w32PayLen w
  | 8 => .w32TagArg w
  | 9 => .w32Cfg w
  | 10 => .w32Cap w
  | _ => .w32Rsv k w

/-- How a bus operation is decoded (R83): its five lines, in order. -/
def decodeBus (op : BusOp) : Instr :=
  match op.size, regionOf op.addr, op.dir with
  | .word, .registers, .read =>
    if isAligned op.addr then decodeRegRead (wordIndex op.addr)
    else .badAccess .read .word op.addr 0
  | .word, .registers, .write =>
    if isAligned op.addr then decodeRegWrite (wordIndex op.addr) op.wdata
    else .badAccess .write .word op.addr op.wdata
  | .byte, .inBuf, .read => .r8InBuf (byteIndex op.addr)
  | .byte, .inBuf, .write => .w8InBuf (byteIndex op.addr) op.wdata
  | .byte, .payBuf, .read => .r8PayBuf (byteIndex op.addr)
  | .byte, .payBuf, .write => .w8PayBuf (byteIndex op.addr) op.wdata
  | .byte, .upper, .read => .r8Rsv (byteIndex op.addr)
  | .byte, .upper, .write => .w8Rsv (byteIndex op.addr) op.wdata
  | .word, .upper, .read =>
    if isAligned op.addr then .r32RsvHi (wordIndex op.addr)
    else .badAccess .read .word op.addr 0
  | .word, .upper, .write =>
    if isAligned op.addr then .w32RsvHi (wordIndex op.addr) op.wdata
    else .badAccess .write .word op.addr op.wdata
  | .byte, .registers, dir => .badAccess dir .byte op.addr (carried dir op.wdata)
  | .word, .inBuf, dir => .badAccess dir .word op.addr (carried dir op.wdata)
  | .word, .payBuf, dir => .badAccess dir .word op.addr (carried dir op.wdata)

/-- The decoder: total, since every command word (R80) and every bus tuple (R83) has a meaning. -/
def decode : Encoded → Instr
  | .cmd w => decodeCommand w
  | .bus op => decodeBus op

/-! ### The bus selector (R82) -/

/-- `wr` as a bit. -/
def Dir.bit : Dir → BitVec 1
  | .read => 0
  | .write => 1

/-- `size` as a bit. -/
def Size.bit : Size → BitVec 1
  | .byte => 0
  | .word => 1

/-- `SEL = {wr, size, addr[18:0]}` (R82). -/
def BusOp.sel (op : BusOp) : BitVec 21 := op.dir.bit ++ op.size.bit ++ op.addr

/-- The bus operation with a given selector and write data. -/
def BusOp.ofSel (sel : BitVec 21) (w : Word) : BusOp :=
  { dir := if sel.getLsbD 20 then .write else .read
    size := if sel.getLsbD 19 then .word else .byte
    addr := sel.extractLsb' 0 19
    wdata := w }

/-- The same operation with the `wdata` it carries: 0 for a read, whose `wdata` is ignored (R82). -/
def BusOp.canon (op : BusOp) : BusOp := { op with wdata := carried op.dir op.wdata }

/-! ### Encoding, from the same tables -/

/-- The address of byte `i` of a region (R51). -/
def byteAddr : Region → BitVec 17 → Addr
  | .registers, i => i.setWidth 19
  | .inBuf, i => 0x20000 + i.setWidth 19
  | .payBuf, i => 0x40000 + i.setWidth 19
  | .upper, i => 0x60000 + i.setWidth 19

/-- The address of 32-bit word `k` of a region: the byte address `4 * k` of it. -/
def wordAddr (r : Region) (k : BitVec 15) : Addr := byteAddr r (k.setWidth 17 <<< 2)

/-- `sw`: a 32-bit write (R84). -/
def sw (a : Addr) (v : Word) : BusOp := { dir := .write, size := .word, addr := a, wdata := v }

/-- `lw`: a 32-bit read (R84). -/
def lw (a : Addr) : BusOp := { dir := .read, size := .word, addr := a, wdata := 0 }

/-- `sb` with a whole `wdata`; `sb ADDR, V` of R84 gives it `zext_32(V)`. -/
def sb (a : Addr) (v : Word) : BusOp := { dir := .write, size := .byte, addr := a, wdata := v }

/-- `lb`: an 8-bit read (R84). -/
def lb (a : Addr) : BusOp := { dir := .read, size := .byte, addr := a, wdata := 0 }

/-- The encoder: the word or bus tuple of an operation (R80, R82, register offsets of R25). -/
def encode : Instr → Encoded
  | .decodeHeader => .cmd 0x00000001
  | .decodeMessage => .cmd 0x00000002
  | .cmdReserved w => .cmd w
  | .w32Cmd w => .bus (sw 0x00 w)
  | .w32Status w => .bus (sw 0x04 w)
  | .w32BufLen w => .bus (sw 0x08 w)
  | .w32Hdr0 w => .bus (sw 0x0C w)
  | .w32Hdr1 w => .bus (sw 0x10 w)
  | .w32FrameLen w => .bus (sw 0x14 w)
  | .w32HdrTag w => .bus (sw 0x18 w)
  | .w32PayLen w => .bus (sw 0x1C w)
  | .w32TagArg w => .bus (sw 0x20 w)
  | .w32Cfg w => .bus (sw 0x24 w)
  | .w32Cap w => .bus (sw 0x28 w)
  | .r32Cmd => .bus (lw 0x00)
  | .r32Status => .bus (lw 0x04)
  | .r32BufLen => .bus (lw 0x08)
  | .r32Hdr0 => .bus (lw 0x0C)
  | .r32Hdr1 => .bus (lw 0x10)
  | .r32FrameLen => .bus (lw 0x14)
  | .r32HdrTag => .bus (lw 0x18)
  | .r32PayLen => .bus (lw 0x1C)
  | .r32TagArg => .bus (lw 0x20)
  | .r32Cfg => .bus (lw 0x24)
  | .r32Cap => .bus (lw 0x28)
  | .w8InBuf i w => .bus (sb (byteAddr .inBuf i) w)
  | .r8InBuf i => .bus (lb (byteAddr .inBuf i))
  | .r8PayBuf i => .bus (lb (byteAddr .payBuf i))
  | .w8PayBuf i w => .bus (sb (byteAddr .payBuf i) w)
  | .r8Rsv i => .bus (lb (byteAddr .upper i))
  | .w8Rsv i w => .bus (sb (byteAddr .upper i) w)
  | .r32Rsv k => .bus (lw (wordAddr .registers k))
  | .w32Rsv k w => .bus (sw (wordAddr .registers k) w)
  | .r32RsvHi k => .bus (lw (wordAddr .upper k))
  | .w32RsvHi k w => .bus (sw (wordAddr .upper k) w)
  | .badAccess dir size addr w => .bus { dir := dir, size := size, addr := addr, wdata := w }

/-! ### The opcode table as data (spec/opcode_table.json) -/

/-- The mnemonic of an operation, letter for letter as the table has it. -/
def Instr.mnemonic : Instr → String
  | .decodeHeader => "DECODE_HEADER"
  | .decodeMessage => "DECODE_MESSAGE"
  | .cmdReserved _ => "CMD_RESERVED"
  | .w32Cmd _ => "W32_CMD"
  | .w32Status _ => "W32_STATUS"
  | .w32BufLen _ => "W32_BUF_LEN"
  | .w32Hdr0 _ => "W32_HDR0"
  | .w32Hdr1 _ => "W32_HDR1"
  | .w32FrameLen _ => "W32_FRAME_LEN"
  | .w32HdrTag _ => "W32_HDR_TAG"
  | .w32PayLen _ => "W32_PAY_LEN"
  | .w32TagArg _ => "W32_TAG_ARG"
  | .w32Cfg _ => "W32_CFG"
  | .w32Cap _ => "W32_CAP"
  | .r32Cmd => "R32_CMD"
  | .r32Status => "R32_STATUS"
  | .r32BufLen => "R32_BUF_LEN"
  | .r32Hdr0 => "R32_HDR0"
  | .r32Hdr1 => "R32_HDR1"
  | .r32FrameLen => "R32_FRAME_LEN"
  | .r32HdrTag => "R32_HDR_TAG"
  | .r32PayLen => "R32_PAY_LEN"
  | .r32TagArg => "R32_TAG_ARG"
  | .r32Cfg => "R32_CFG"
  | .r32Cap => "R32_CAP"
  | .w8InBuf _ _ => "W8_IN_BUF"
  | .r8InBuf _ => "R8_IN_BUF"
  | .r8PayBuf _ => "R8_PAY_BUF"
  | .w8PayBuf _ _ => "W8_PAY_BUF"
  | .r8Rsv _ => "R8_RSV"
  | .w8Rsv _ _ => "W8_RSV"
  | .r32Rsv _ => "R32_RSV"
  | .w32Rsv _ _ => "W32_RSV"
  | .r32RsvHi _ => "R32_RSV_HI"
  | .w32RsvHi _ _ => "W32_RSV_HI"
  | .badAccess _ _ _ _ => "BAD_ACCESS"

/-- One row of the table: `bits & mask = value` selects the mnemonic (R82). -/
structure TableRow (n : Nat) where
  value : BitVec n
  mask : BitVec n
  mnemonic : String
deriving DecidableEq, Repr

/-- The first row, in ascending priority, that the bits match (R82). -/
def firstRow {n : Nat} (rows : List (TableRow n)) (bits : BitVec n) : Option String :=
  (rows.find? fun r => bits &&& r.mask == r.value).map (·.mnemonic)

/-- The `CMD` rows, matched over `wdata[31:0]`, in priority order. -/
def commandRows : List (TableRow 32) :=
  [⟨0x00000001, 0xFFFFFFFF, "DECODE_HEADER"⟩, ⟨0x00000002, 0xFFFFFFFF, "DECODE_MESSAGE"⟩] ++
  ([0, 3, 4, 5, 6, 7, 8, 9, 10, 11, 12, 13, 14, 15].map fun op => ⟨op, 0xFFFFFFFF, "CMD_RESERVED"⟩) ++
  [⟨0x00000000, 0x00000000, "CMD_RESERVED"⟩]

/-- The rows of the 32-bit register writes. -/
def registerWriteRows : List (TableRow 21) :=
  [⟨0x180000, 0x1FFFFF, "W32_CMD"⟩,
   ⟨0x180004, 0x1FFFFF, "W32_STATUS"⟩,
   ⟨0x180008, 0x1FFFFF, "W32_BUF_LEN"⟩,
   ⟨0x18000C, 0x1FFFFF, "W32_HDR0"⟩,
   ⟨0x180010, 0x1FFFFF, "W32_HDR1"⟩,
   ⟨0x180014, 0x1FFFFF, "W32_FRAME_LEN"⟩,
   ⟨0x180018, 0x1FFFFF, "W32_HDR_TAG"⟩,
   ⟨0x18001C, 0x1FFFFF, "W32_PAY_LEN"⟩,
   ⟨0x180020, 0x1FFFFF, "W32_TAG_ARG"⟩,
   ⟨0x180024, 0x1FFFFF, "W32_CFG"⟩,
   ⟨0x180028, 0x1FFFFF, "W32_CAP"⟩]

/-- The rows of the 32-bit register reads. -/
def registerReadRows : List (TableRow 21) :=
  [⟨0x080000, 0x1FFFFF, "R32_CMD"⟩,
   ⟨0x080004, 0x1FFFFF, "R32_STATUS"⟩,
   ⟨0x080008, 0x1FFFFF, "R32_BUF_LEN"⟩,
   ⟨0x08000C, 0x1FFFFF, "R32_HDR0"⟩,
   ⟨0x080010, 0x1FFFFF, "R32_HDR1"⟩,
   ⟨0x080014, 0x1FFFFF, "R32_FRAME_LEN"⟩,
   ⟨0x080018, 0x1FFFFF, "R32_HDR_TAG"⟩,
   ⟨0x08001C, 0x1FFFFF, "R32_PAY_LEN"⟩,
   ⟨0x080020, 0x1FFFFF, "R32_TAG_ARG"⟩,
   ⟨0x080024, 0x1FFFFF, "R32_CFG"⟩,
   ⟨0x080028, 0x1FFFFF, "R32_CAP"⟩]

/-- The rows of the buffer windows, the reserved addresses and the catch-all `BAD_ACCESS`. -/
def windowRows : List (TableRow 21) :=
  [⟨0x120000, 0x1E0000, "W8_IN_BUF"⟩,
   ⟨0x020000, 0x1E0000, "R8_IN_BUF"⟩,
   ⟨0x040000, 0x1E0000, "R8_PAY_BUF"⟩,
   ⟨0x140000, 0x1E0000, "W8_PAY_BUF"⟩,
   ⟨0x060000, 0x1E0000, "R8_RSV"⟩,
   ⟨0x160000, 0x1E0000, "W8_RSV"⟩,
   ⟨0x080000, 0x1E0003, "R32_RSV"⟩,
   ⟨0x180000, 0x1E0003, "W32_RSV"⟩,
   ⟨0x0E0000, 0x1E0003, "R32_RSV_HI"⟩,
   ⟨0x1E0000, 0x1E0003, "W32_RSV_HI"⟩,
   ⟨0x000000, 0x000000, "BAD_ACCESS"⟩]

/-- The `BUS` rows, matched over `SEL`, in priority order. -/
def busRows : List (TableRow 21) := registerWriteRows ++ registerReadRows ++ windowRows

/-! ### Table words

An operation as one number of bits, numbered as the table numbers them: a `CMD` word is the 32 bits of
`wdata`; a `BUS` word is `SEL` in bits 20:0 with bits 23:21 zero, and `wdata` (which the table gives no bits,
"separate 32-bit port, not part of SEL") in bits 55:24 (assumption log 10). -/

/-- Why a table word is rejected. -/
inductive DecodeError where
  /-- The number of bits is that of no format: 32 (`CMD`), 24 or 56 (`BUS`). -/
  | noSuchFormat (nbits : Nat)
  /-- A bit is set where the format has none. -/
  | strayBits (nbits w : Nat)
deriving DecidableEq, Repr

/-- The operation that a table word presents to the block. -/
def tableWord (nbits w : Nat) : Except DecodeError Encoded :=
  if nbits = 32 then
    if w < 2 ^ 32 then .ok (.cmd (BitVec.ofNat 32 w)) else .error (.strayBits nbits w)
  else if nbits = 24 ∨ nbits = 56 then
    if w % 2 ^ 24 < 2 ^ 21 ∧ w < 2 ^ nbits then
      .ok (.bus (BusOp.ofSel (BitVec.ofNat 21 w) (BitVec.ofNat 32 (w / 2 ^ 24))))
    else .error (.strayBits nbits w)
  else .error (.noSuchFormat nbits)

/-- The instruction that the decoder reads from a table word. -/
def decodeTableWord (nbits w : Nat) : Option Instr :=
  match tableWord nbits w with
  | .ok e => some (decode e)
  | .error _ => none

end Sys2Proof
end

