-- ==== Sys2Proof/Config.lean ====
section
/-! DEFINITION. The implementation parameters of one FDB instance (00_scope.md R7). They are fixed for an
instance; the model carries them in `State.cfg`, which no step changes (assumption log 1).
The spec leaves no value free: what it calls unspecified it turns into a recorded fault (R210, R211), so
this file holds no uninterpreted constant. -/

namespace Sys2Proof

/-- The domain of `MIN_BUF`: 8 or 9 (R7). -/
inductive MinBuf where
  | eight
  | nine
deriving DecidableEq, Repr

/-- The number that `MIN_BUF` stands for. -/
def MinBuf.bytes : MinBuf → Nat
  | .eight => 8
  | .nine => 9

/-- The parameters of R7: `MIN_BUF`, `STRICT_END` and `IN_CAP`. -/
structure Config where
  minBuf : MinBuf
  strictEnd : Bool
  inCap : Nat
deriving DecidableEq, Repr

/-- The domain of `IN_CAP` in R7: `MIN_BUF .. 131072`. -/
abbrev Config.wf (c : Config) : Prop := c.minBuf.bytes ≤ c.inCap ∧ c.inCap ≤ 131072

/-- The default column of R7. -/
def Config.default : Config := { minBuf := .nine, strictEnd := true, inCap := 65543 }

end Sys2Proof
end

