-- ==== Sys2Proof/Machine/State.lean ====
section
/-! DEFINITION. The state of one FDB instance (10_state.md R24), the reasons a step can stop, and the state
after reset (R44, R230). -/

namespace Sys2Proof.Machine

/-- `STATUS.RESULT` (R31). Code 7 is never produced, so it has no constructor. -/
inductive ResultCode where
  | none
  | ok
  | headerTooSmall
  | badSignature
  | bufferTooShort
  | lengthMismatch
  | cmdError
deriving DecidableEq, Repr

/-- The decoded header (R24), the source's `FrameHeader`. -/
structure Header where
  sync0 : Byte
  sync1 : Byte
  cls : Byte
  id : Byte
  len : BitVec 16
  ckA : Byte
  ckB : Byte
deriving DecidableEq, Repr

/-- The model faults of R210 and R211: the hardware uses or returns an unspecified value. -/
inductive ModelFault where
  /-- `F_UNWRITTEN_INPUT(i)`: a decode command read byte `i` of `IN_BUF`, never written since reset (R210). -/
  | unwrittenInput (i : Nat)
  /-- `F_UNWRITTEN_READ(i)`: a host `R8 IN_BUF` read such a byte (R172, R210). -/
  | unwrittenRead (i : Nat)
  /-- `F_INVALID_RESULT(addr)`: a host read of an output that is not valid (R41, R211). -/
  | invalidResult (addr : Addr)
deriving DecidableEq, Repr

/-- The refusal reasons of R212: the host does what the spec leaves undefined. -/
inductive RefusalReason where
  /-- `R_BAD_ACCESS`: an access that breaks the width rules (R55, R176). -/
  | badAccess
  /-- `R_LEN_OVER_CAP`: a `BUF_LEN` write above `IN_CAP` (R163). -/
  | lenOverCap
deriving DecidableEq, Repr

/-- Why a step stops with a fault. -/
inductive Fault where
  /-- Raised by every operation, by reset and by an idle step in a state that has the model fault `f`
  recorded: "no step is possible" (R213). Safe: nothing is claimed of the hardware from there on. -/
  | quiescent (f : ModelFault)
deriving DecidableEq, Repr

/-- Why a step stops with a refusal. -/
inductive Refusal where
  /-- The arm of an operation that has no meaning in the model; no arm is left so. Safe. -/
  | notModelled (mnemonic : String)
  /-- Raised by every operation, by reset and by an idle step in a state that has the refusal `r` recorded:
  "no step is possible" (R213). Safe: nothing is claimed of the hardware from there on. -/
  | quiescent (r : RefusalReason)
deriving DecidableEq, Repr

/-- The contents of `IN_BUF`: the written bytes, each with its index. A byte that is not listed is `none` of
R24, never written since reset. -/
abbrev Memory := List Host.Cell

/-- The canonical form: indexes strictly rising. An unlisted byte reads as no value, so no entry equals what an
unlisted byte reads as. -/
abbrev Memory.wf (m : Memory) : Prop := m.Pairwise fun x y => x.1 < y.1

/-- The state of one FDB instance: the record of R24, the instance's parameters (R7), and the host's side of
the bus (R20, R21). -/
structure State where
  /-- `MIN_BUF`, `STRICT_END` and `IN_CAP`, read as `CFG` and `CAP` (R7, R35, R36). No step changes them. -/
  cfg : Config
  /-- `BUF_LEN.LEN` (R26). -/
  bufLen : Nat
  /-- `IN_BUF` (R27). -/
  inBuf : Memory
  /-- `TAG_ARG.ARG` (R39). -/
  tagArg : Byte
  /-- `STATUS.RESULT` (R31). -/
  result : ResultCode
  /-- `STATUS.LAST_OP` (R30). -/
  lastOp : BitVec 4
  /-- The decoded header; `HDR_VALID` is 1 iff it is some (R24, R30). -/
  hdr : Option Header
  /-- The payload copy of `PAY_BUF`; `PAY_VALID` is 1 iff it is some (R24, R28). -/
  pay : Option (List Byte)
  /-- The sticky model fault (R24, R43, R213). -/
  fault : Option ModelFault
  /-- The sticky refusal mark (R24, R43, R213). -/
  refused : Option RefusalReason
  /-- The `rdata` port (R21): what the last step returned to the host; none when it returned nothing
  (a write, a reset, a read that raised a fault). -/
  rdata : Option Word
  /-- MODEL: the inputs the host has still to present, next one first (R20). They are the environment's, not
  storage of the FDB (assumption log 2). -/
  inputs : List HostInput
deriving DecidableEq, Repr

/-- The reset state of an instance with parameters `c` (R44). -/
def State.resetOf (c : Config) : State :=
  { cfg := c
    bufLen := 0
    inBuf := []
    tagArg := 0x00
    result := .none
    lastOp := 0
    hdr := none
    pay := none
    fault := none
    refused := none
    rdata := none
    inputs := [] }

/-- The machine right after reset (R44, R230), with the default parameters of R7. -/
def State.reset : State := State.resetOf Config.default

end Sys2Proof.Machine
end

