-- ==== Sys2Proof/Machine/Ops.lean ====
section
/-! DEFINITION. The named operations over `IN_BUF` and the registers that the meanings share, and the shared
operations of an error: `raise` and `refuse` (00_scope.md R10; 60_exceptions.md R210 to R213). The FDB has no
traps (R214), so there is no trap entry to take and no return from one. -/

namespace Sys2Proof.Machine

/-! ### IN_BUF -/

/-- `in_buf[i]`: none when the byte was never written (R24, R27). -/
def Memory.read : Memory → Nat → Option Byte
  | [], _ => none
  | (k, v) :: m, i => if k = i then some v else Memory.read m i

/-- `in_buf[i] <- some v` (R171), keeping the indexes strictly rising. -/
def Memory.write : Memory → Nat → Byte → Memory
  | [], i, v => [(i, v)]
  | (k, w) :: m, i, v =>
    if i < k then (i, v) :: (k, w) :: m
    else if i = k then (i, v) :: m
    else (k, w) :: Memory.write m i v

/-! ### Writing one part of the state -/

/-- `buf_len <- n` (R163). -/
def State.setBufLen (s : State) (n : Nat) : State := { s with bufLen := n }

/-- `tag_arg <- b` (R167). -/
def State.setTagArg (s : State) (b : Byte) : State := { s with tagArg := b }

/-- `in_buf[i] <- some v` (R171). -/
def State.writeIn (s : State) (i : Nat) (v : Byte) : State := { s with inBuf := s.inBuf.write i v }

/-- A read returns `v` on `rdata` (R160). -/
def State.returns (s : State) (v : Word) : State := { s with rdata := some v }

/-- Nothing is returned yet. -/
def State.clearRead (s : State) : State := { s with rdata := none }

/-- The inputs the host has still to present. -/
def State.setInputs (s : State) (l : List HostInput) : State := { s with inputs := l }

/-- The end of a command: `LAST_OP`, the outputs it leaves and `finish(code)` in one commit (R10, R40). -/
def State.finish (s : State) (op : BitVec 4) (code : ResultCode) (h : Option Header)
    (p : Option (List Byte)) : State :=
  { s with lastOp := op, result := code, hdr := h, pay := p }

/-! ### Errors -/

/-- `raise f`: the sticky model fault is recorded and nothing else is written (R11, R210, R214). -/
def State.raise (s : State) (f : ModelFault) : State := { s with fault := some f }

/-- `refuse(r)`: the sticky refusal mark is recorded and nothing else is written (R212). -/
def State.refuse (s : State) (r : RefusalReason) : State := { s with refused := some r }

/-- No model fault and no refusal is recorded: a step is possible (R213). -/
abbrev State.live (s : State) : Prop := s.fault = none ∧ s.refused = none

/-- The step to `t`, taken unless a mark is recorded in `s`: then "no step is possible" (R213). -/
def guarded (s t : State) : Host.Outcome State Fault Refusal :=
  match s.fault, s.refused with
  | some x, _ => .fault (.quiescent x)
  | none, some r => .refused (.quiescent r)
  | none, none => .next t

/-- One step of the FDB that does `f` (R160): it starts with nothing returned on `rdata`. -/
def hostStep (s : State) (f : State → State) : Host.Outcome State Fault Refusal :=
  guarded s (f s.clearRead)

/-- A write that the spec ignores: it completes and changes nothing (R53, R170, R174, R175). -/
def writeIgnored (s : State) : Host.Outcome State Fault Refusal := hostStep s fun s => s

/-- A read of a reserved address: it completes and returns 0 (R53, R175). -/
def readsZero (s : State) : Host.Outcome State Fault Refusal := hostStep s fun s => s.returns 0

/-- A read of an output that may be invalid (R41, R166, R173): its value when there is one, else the model fault
`F_INVALID_RESULT(addr)` and no value. -/
def State.returnsValid (s : State) (a : Addr) : Option Word → State
  | some v => s.returns v
  | none => s.raise (.invalidResult a)

/-! ### Reset -/

/-- The reset step (R230): every piece of state at the value of R44; the parameters and the marks stay
(R44, R213), and so does what the host has still to present. -/
def State.afterReset (s : State) : State :=
  { State.resetOf s.cfg with fault := s.fault, refused := s.refused, inputs := s.inputs }

/-- The reset step, taken like any other only while no mark is recorded (R213, R230). -/
def resetStep (s : State) : Host.Outcome State Fault Refusal := hostStep s State.afterReset

/-- A step with no input (assumption log 3): nothing changes, and what the last step returned still stands. With a
mark recorded it is no step either (R213). -/
def idleStep (s : State) : Host.Outcome State Fault Refusal := guarded s s

end Sys2Proof.Machine
end

