-- ==== Sys2Proof/Machine/Operands.lean ====
section
/-! DEFINITION. The operands of the decode commands: the fields of the wire frame (30_encoding.md R71 to R75)
and the two decodes over `IN_BUF` (40_header_decode.md R101 to R108, 41_message_decode.md R132, R133). -/

namespace Sys2Proof.Machine

/-- `SYNC0` (R73). -/
def sync0 : Byte := 0xB5

/-- `SYNC1` (R73). -/
def sync1 : Byte := 0x62

/-- The number of `PAY_BUF` bytes: the largest payload length (R28). -/
def payCap : Nat := 65535

/-- The little-endian field unpacker `u16le` (R10, R101). -/
def u16le (lo hi : Byte) : BitVec 16 := lo.setWidth 16 ||| (hi.setWidth 16 <<< 8)

/-- The frame boundary `FrameEnd(L) = 8 + L`, in natural numbers (R8, R106). -/
def frameEnd (len : BitVec 16) : Nat := 8 + len.toNat

/-- How a decode ends without a result value: a model fault is raised, or it fails with a result code (R11). -/
inductive Stop where
  | raised (f : ModelFault)
  | failed (code : ResultCode)
deriving DecidableEq, Repr

/-- `InRead(i)` (R10, R210). -/
def inRead (m : Memory) (i : Nat) : Except Stop Byte :=
  match m.read i with
  | some v => .ok v
  | none => .error (.raised (.unwrittenInput i))

/-- `HeaderCore` (R108): a function of `MIN_BUF`, `buf_len` and `IN_BUF`. -/
def headerCore (c : Config) (n : Nat) (m : Memory) : Except Stop Header :=
  if n < c.minBuf.bytes then .error (.failed .headerTooSmall)      -- R102
  else do
    let s0 ← inRead m 0                                             -- R103
    let s1 ← inRead m 1
    if s0 ≠ sync0 ∨ s1 ≠ sync1 then .error (.failed .badSignature)
    else do
      let cls ← inRead m 2                                          -- R104
      let id ← inRead m 3
      let lo ← inRead m 4
      let hi ← inRead m 5
      let len := u16le lo hi
      if n < frameEnd len then .error (.failed .bufferTooShort)     -- R105
      else do
        let a ← inRead m (6 + len.toNat)                            -- R107
        let b ← inRead m (7 + len.toNat)
        pure { sync0 := s0, sync1 := s1, cls := cls, id := id, len := len, ckA := a, ckB := b }

/-- The `count` bytes of `IN_BUF` from index `i` up, read in ascending order. -/
def readRun (m : Memory) : Nat → Nat → Except Stop (List Byte)
  | _, 0 => pure []
  | i, count + 1 => do
    let b ← inRead m i
    let rest ← readRun m (i + 1) count
    pure (b :: rest)

/-- `PayloadCore(L)`: the bytes at offsets 6 to `5 + L` (R133). -/
def payloadCore (m : Memory) (len : BitVec 16) : Except Stop (List Byte) := readRun m 6 len.toNat

/-- The decode of `DECODE_MESSAGE`: the header, the end-consistency check, the payload (R130 to R134). -/
def messageCore (c : Config) (n : Nat) (m : Memory) : Except Stop (Header × List Byte) := do
  let h ← headerCore c n m
  if c.strictEnd = true ∧ n ≠ frameEnd h.len then .error (.failed .lengthMismatch)   -- R132
  else do
    let p ← payloadCore m h.len                                                     -- R133
    pure (h, p)

/-- What a decode command commits (R110, R134): a raised fault writes nothing else; a failure leaves every
output invalid; a success publishes what it produced. -/
def State.commit (s : State) (op : BitVec 4) :
    Except Stop (Header × Option (List Byte)) → State
  | .error (.raised f) => s.raise f
  | .error (.failed code) => s.finish op code none none
  | .ok (h, p) => s.finish op .ok (some h) p

end Sys2Proof.Machine
end

