-- ==== Sys2Proof/Machine/Flags.lean ====
section
/-! DEFINITION. The words that register reads return, field by field (10_state.md R30 to R39), and the
class-tag lookup (42_class_tag.md R151). The only flags are the fields of `STATUS` (R42). -/

namespace Sys2Proof.Machine

/-- The number of a result code (R31). -/
def ResultCode.code : ResultCode → BitVec 3
  | .none => 0
  | .ok => 1
  | .headerTooSmall => 2
  | .badSignature => 3
  | .bufferTooShort => 4
  | .lengthMismatch => 5
  | .cmdError => 6

/-- `STATUS.HDR_VALID` (R30). -/
def State.hdrValid (s : State) : Bool := s.hdr.isSome

/-- `STATUS.PAY_VALID` (R30). -/
def State.payValid (s : State) : Bool := s.pay.isSome

/-- `STATUS.BUSY`: always 0, since commands are atomic (R30, R240). -/
def busy : Bool := false

/-- `ClassTag` (R151). -/
def classTag (b : Byte) : BitVec 4 :=
  match b.toNat with
  | 0x01 => 1   -- navigation
  | 0x02 => 2   -- receiver-manager
  | 0x04 => 3   -- info
  | 0x05 => 4   -- ack
  | 0x06 => 5   -- config
  | 0x0A => 6   -- monitor
  | 0x0B => 7   -- aiding
  | 0x0D => 8   -- timing
  | 0x10 => 9   -- external-sensor-fusion
  | _ => 0      -- UNKNOWN

/-- `STATUS` (R30, R165). -/
def State.statusWord (s : State) : Word :=
  0#20 ++ s.lastOp ++ 0#2 ++ BitVec.ofBool busy ++ BitVec.ofBool s.payValid ++
    BitVec.ofBool s.hdrValid ++ s.result.code

/-- `BUF_LEN`: `LEN` in bits 17:0, `zext_32(buf_len)` (R26, R164). -/
def State.bufLenWord (s : State) : Word := 0#14 ++ BitVec.ofNat 18 s.bufLen

/-- `HDR0 = {ID, CLASS, SYNC1, SYNC0}` (R32). -/
def Header.word0 (h : Header) : Word := h.id ++ h.cls ++ h.sync1 ++ h.sync0

/-- `HDR1 = {CK_B, CK_A, PAYLOAD_LEN}` (R33). -/
def Header.word1 (h : Header) : Word := h.ckB ++ h.ckA ++ h.len

/-- `FRAME_LEN`: `8 + hdr.len` in bits 16:0 (R34). -/
def Header.frameLenWord (h : Header) : Word := 0#15 ++ BitVec.ofNat 17 (frameEnd h.len)

/-- `HDR_TAG = ClassTag(hdr.cls)` (R37). -/
def Header.tagWord (h : Header) : Word := 0#28 ++ classTag h.cls

/-- `PAY_LEN`: the payload's length in bits 15:0 (R38). -/
def payLenWord (p : List Byte) : Word := 0#16 ++ BitVec.ofNat 16 p.length

/-- `TAG_ARG = zext_32({ClassTag(tag_arg), tag_arg})` (R39, R152). -/
def State.tagArgWord (s : State) : Word := 0#20 ++ classTag s.tagArg ++ s.tagArg

/-- `CFG = zext_32({STRICT_END, MIN_BUF[3:0]})` (R35, R169). -/
def cfgWord (c : Config) : Word :=
  0#27 ++ BitVec.ofBool c.strictEnd ++ BitVec.ofNat 4 c.minBuf.bytes

/-- `CAP`: `IN_CAP` in bits 17:0 (R36, R169). -/
def capWord (c : Config) : Word := 0#14 ++ BitVec.ofNat 18 c.inCap

/-- `PAY_BUF[i]` when it is valid (R28). -/
def State.payByte (s : State) (i : Nat) : Option Byte := s.pay.bind fun p => p[i]?

end Sys2Proof.Machine
end

