-- ==== Sys2Proof/Machine/Buffer.lean ====
section
/-! DEFINITION. The byte accesses to the buffer windows (43_host_access.md R171 to R174), with the indexes that
no byte implements (20_memory.md R52 to R54). -/

namespace Sys2Proof.Machine

/-- `W8 IN_BUF` (R171); an index at or above `IN_CAP` is reserved and the write ignored (R52, R175). -/
def execW8InBuf (i : BitVec 17) (w : Word) (s : State) : Host.Outcome State Fault Refusal :=
  hostStep s fun s =>
    if i.toNat < s.cfg.inCap then s.writeIn i.toNat (w.extractLsb' 0 8) else s

/-- `R8 IN_BUF` (R172), whatever `buf_len` is; an index at or above `IN_CAP` is reserved and reads 0. -/
def execR8InBuf (i : BitVec 17) (s : State) : Host.Outcome State Fault Refusal :=
  hostStep s fun s =>
    if i.toNat < s.cfg.inCap then
      match s.inBuf.read i.toNat with
      | some v => s.returns (v.setWidth 32)
      | none => s.raise (.unwrittenRead i.toNat)
    else s.returns 0

/-- `R8 PAY_BUF` (R173); an index at or above 65535 is reserved and reads 0 (R54). -/
def execR8PayBuf (i : BitVec 17) (s : State) : Host.Outcome State Fault Refusal :=
  hostStep s fun s =>
    if i.toNat < payCap then
      s.returnsValid (byteAddr .payBuf i) ((s.payByte i.toNat).map fun v => v.setWidth 32)
    else s.returns 0

/-- `W8 PAY_BUF` (R174): read-only to the host, the write is ignored, at a reserved index too (R54). -/
def execW8PayBuf (s : State) : Host.Outcome State Fault Refusal := writeIgnored s

end Sys2Proof.Machine
end

