-- ==== Sys2Proof/Machine/Command.lean ====
section
/-! DEFINITION. The command words: `DECODE_HEADER` (40_header_decode.md R110), `DECODE_MESSAGE`
(41_message_decode.md R134) and `CMD_RESERVED` (30_encoding.md R81). -/

namespace Sys2Proof.Machine

/-- `DECODE_HEADER` (R110): decode and publish the frame header; no payload is published. -/
def execDecodeHeader (s : State) : Host.Outcome State Fault Refusal :=
  hostStep s fun s =>
    s.commit 1 ((headerCore s.cfg s.bufLen s.inBuf).map fun h => (h, none))

/-- `DECODE_MESSAGE` (R134): decode the header and publish it with a copy of the payload. -/
def execDecodeMessage (s : State) : Host.Outcome State Fault Refusal :=
  hostStep s fun s =>
    s.commit 2 ((messageCore s.cfg s.bufLen s.inBuf).map fun r => (r.1, some r.2))

/-- `CMD_RESERVED` (R81): `CMD_ERROR`, every output invalid, `LAST_OP = wdata[3:0]`. -/
def execCmdReserved (w : Word) (s : State) : Host.Outcome State Fault Refusal :=
  hostStep s fun s => s.finish (w.extractLsb' 0 4) .cmdError none none

end Sys2Proof.Machine
end

