-- ==== Sys2Proof/Machine/RegisterRead.lean ====
section
/-! DEFINITION. The 32-bit register reads (43_host_access.md R162, R164 to R166, R168, R169). -/

namespace Sys2Proof.Machine

/-- `R32 CMD` (R162): 0. -/
def execR32Cmd (s : State) : Host.Outcome State Fault Refusal := hostStep s fun s => s.returns 0

/-- `R32 STATUS` (R165). -/
def execR32Status (s : State) : Host.Outcome State Fault Refusal :=
  hostStep s fun s => s.returns s.statusWord

/-- `R32 BUF_LEN` (R164). -/
def execR32BufLen (s : State) : Host.Outcome State Fault Refusal :=
  hostStep s fun s => s.returns s.bufLenWord

/-- `R32 HDR0` (R166), gated by `HDR_VALID` (R32). -/
def execR32Hdr0 (s : State) : Host.Outcome State Fault Refusal :=
  hostStep s fun s => s.returnsValid 0x0C (s.hdr.map Header.word0)

/-- `R32 HDR1` (R166), gated by `HDR_VALID` (R33). -/
def execR32Hdr1 (s : State) : Host.Outcome State Fault Refusal :=
  hostStep s fun s => s.returnsValid 0x10 (s.hdr.map Header.word1)

/-- `R32 FRAME_LEN` (R166), gated by `HDR_VALID` (R34). -/
def execR32FrameLen (s : State) : Host.Outcome State Fault Refusal :=
  hostStep s fun s => s.returnsValid 0x14 (s.hdr.map Header.frameLenWord)

/-- `R32 HDR_TAG` (R166), gated by `HDR_VALID` (R37). -/
def execR32HdrTag (s : State) : Host.Outcome State Fault Refusal :=
  hostStep s fun s => s.returnsValid 0x18 (s.hdr.map Header.tagWord)

/-- `R32 PAY_LEN` (R166), gated by `PAY_VALID` (R38). -/
def execR32PayLen (s : State) : Host.Outcome State Fault Refusal :=
  hostStep s fun s => s.returnsValid 0x1C (s.pay.map payLenWord)

/-- `R32 TAG_ARG` (R168). -/
def execR32TagArg (s : State) : Host.Outcome State Fault Refusal :=
  hostStep s fun s => s.returns s.tagArgWord

/-- `R32 CFG` (R169). -/
def execR32Cfg (s : State) : Host.Outcome State Fault Refusal :=
  hostStep s fun s => s.returns (cfgWord s.cfg)

/-- `R32 CAP` (R169). -/
def execR32Cap (s : State) : Host.Outcome State Fault Refusal :=
  hostStep s fun s => s.returns (capWord s.cfg)

end Sys2Proof.Machine
end

