-- ==== Sys2Proof/Machine/RegisterWrite.lean ====
section
/-! DEFINITION. The 32-bit register writes (43_host_access.md R161, R163, R167, R170). -/

namespace Sys2Proof.Machine

/-- `W32 CMD` (R161): the write performs the command that `wdata` selects, in the same step. -/
def execW32Cmd (w : Word) (s : State) : Host.Outcome State Fault Refusal :=
  if w = 0x00000001 then execDecodeHeader s
  else if w = 0x00000002 then execDecodeMessage s
  else execCmdReserved w s

/-- `W32 BUF_LEN` (R163): a length above `IN_CAP` is refused. -/
def execW32BufLen (w : Word) (s : State) : Host.Outcome State Fault Refusal :=
  hostStep s fun s =>
    if s.cfg.inCap < w.toNat then s.refuse .lenOverCap else s.setBufLen w.toNat

/-- `W32 TAG_ARG` (R167): `wdata[7:0]` is stored, the rest ignored. -/
def execW32TagArg (w : Word) (s : State) : Host.Outcome State Fault Refusal :=
  hostStep s fun s => s.setTagArg (w.extractLsb' 0 8)

/-- `W32 STATUS` (R170): read-only, the write is ignored. -/
def execW32Status (s : State) : Host.Outcome State Fault Refusal := writeIgnored s

/-- `W32 HDR0` (R170): read-only, the write is ignored. -/
def execW32Hdr0 (s : State) : Host.Outcome State Fault Refusal := writeIgnored s

/-- `W32 HDR1` (R170): read-only, the write is ignored. -/
def execW32Hdr1 (s : State) : Host.Outcome State Fault Refusal := writeIgnored s

/-- `W32 FRAME_LEN` (R170): read-only, the write is ignored. -/
def execW32FrameLen (s : State) : Host.Outcome State Fault Refusal := writeIgnored s

/-- `W32 HDR_TAG` (R170): read-only, the write is ignored. -/
def execW32HdrTag (s : State) : Host.Outcome State Fault Refusal := writeIgnored s

/-- `W32 PAY_LEN` (R170): read-only, the write is ignored. -/
def execW32PayLen (s : State) : Host.Outcome State Fault Refusal := writeIgnored s

/-- `W32 CFG` (R170): read-only, the write is ignored. -/
def execW32Cfg (s : State) : Host.Outcome State Fault Refusal := writeIgnored s

/-- `W32 CAP` (R170): read-only, the write is ignored. -/
def execW32Cap (s : State) : Host.Outcome State Fault Refusal := writeIgnored s

end Sys2Proof.Machine
end

