-- ==== Sys2Proof/Machine/Reserved.lean ====
section
/-! DEFINITION. Reserved addresses (43_host_access.md R175) and the accesses that break the width rules
(R176). -/

namespace Sys2Proof.Machine

/-- An 8-bit read in the upper reserved region: 0 (R175). -/
def execR8Rsv (s : State) : Host.Outcome State Fault Refusal := readsZero s

/-- An 8-bit write in the upper reserved region: ignored (R175). -/
def execW8Rsv (s : State) : Host.Outcome State Fault Refusal := writeIgnored s

/-- An aligned 32-bit read of an unlisted offset of the register region: 0 (R175). -/
def execR32Rsv (s : State) : Host.Outcome State Fault Refusal := readsZero s

/-- An aligned 32-bit write of an unlisted offset of the register region: ignored (R175). -/
def execW32Rsv (s : State) : Host.Outcome State Fault Refusal := writeIgnored s

/-- An aligned 32-bit read in the upper reserved region: 0 (R175). -/
def execR32RsvHi (s : State) : Host.Outcome State Fault Refusal := readsZero s

/-- An aligned 32-bit write in the upper reserved region: ignored (R175). -/
def execW32RsvHi (s : State) : Host.Outcome State Fault Refusal := writeIgnored s

/-- `BAD_ACCESS` (R176): `refuse(R_BAD_ACCESS)`, and no other effect. -/
def execBadAccess (s : State) : Host.Outcome State Fault Refusal :=
  hostStep s fun s => s.refuse .badAccess

end Sys2Proof.Machine
end

