-- ==== Sys2Proof/Machine/Dispatch.lean ====
section
/-! DEFINITION. One arm for each operation of spec/opcode_table.json. -/

namespace Sys2Proof.Machine

def exec (i : Instr) (s : State) : Host.Outcome State Fault Refusal :=
  match i with
  -- command words
  | .decodeHeader => Sys2Proof.Machine.execDecodeHeader s
  | .decodeMessage => Sys2Proof.Machine.execDecodeMessage s
  | .cmdReserved w => Sys2Proof.Machine.execCmdReserved w s
  -- register writes
  | .w32Cmd w => Sys2Proof.Machine.execW32Cmd w s
  | .w32Status _ => Sys2Proof.Machine.execW32Status s
  | .w32BufLen w => Sys2Proof.Machine.execW32BufLen w s
  | .w32Hdr0 _ => Sys2Proof.Machine.execW32Hdr0 s
  | .w32Hdr1 _ => Sys2Proof.Machine.execW32Hdr1 s
  | .w32FrameLen _ => Sys2Proof.Machine.execW32FrameLen s
  | .w32HdrTag _ => Sys2Proof.Machine.execW32HdrTag s
  | .w32PayLen _ => Sys2Proof.Machine.execW32PayLen s
  | .w32TagArg w => Sys2Proof.Machine.execW32TagArg w s
  | .w32Cfg _ => Sys2Proof.Machine.execW32Cfg s
  | .w32Cap _ => Sys2Proof.Machine.execW32Cap s
  -- register reads
  | .r32Cmd => Sys2Proof.Machine.execR32Cmd s
  | .r32Status => Sys2Proof.Machine.execR32Status s
  | .r32BufLen => Sys2Proof.Machine.execR32BufLen s
  | .r32Hdr0 => Sys2Proof.Machine.execR32Hdr0 s
  | .r32Hdr1 => Sys2Proof.Machine.execR32Hdr1 s
  | .r32FrameLen => Sys2Proof.Machine.execR32FrameLen s
  | .r32HdrTag => Sys2Proof.Machine.execR32HdrTag s
  | .r32PayLen => Sys2Proof.Machine.execR32PayLen s
  | .r32TagArg => Sys2Proof.Machine.execR32TagArg s
  | .r32Cfg => Sys2Proof.Machine.execR32Cfg s
  | .r32Cap => Sys2Proof.Machine.execR32Cap s
  -- buffers
  | .w8InBuf k w => Sys2Proof.Machine.execW8InBuf k w s
  | .r8InBuf k => Sys2Proof.Machine.execR8InBuf k s
  | .r8PayBuf k => Sys2Proof.Machine.execR8PayBuf k s
  | .w8PayBuf _ _ => Sys2Proof.Machine.execW8PayBuf s
  -- reserved addresses and illegal accesses
  | .r8Rsv _ => Sys2Proof.Machine.execR8Rsv s
  | .w8Rsv _ _ => Sys2Proof.Machine.execW8Rsv s
  | .r32Rsv _ => Sys2Proof.Machine.execR32Rsv s
  | .w32Rsv _ _ => Sys2Proof.Machine.execW32Rsv s
  | .r32RsvHi _ => Sys2Proof.Machine.execR32RsvHi s
  | .w32RsvHi _ _ => Sys2Proof.Machine.execW32RsvHi s
  | .badAccess _ _ _ _ => Sys2Proof.Machine.execBadAccess s

end Sys2Proof.Machine
end

