-- ==== Sys2Proof/Machine/Step.lean ====
section
/-! DEFINITION. One step of the machine. The FDB fetches no instructions (10_state.md R22): a step takes the
next input of the host (R20), which is a host operation or the reset signal. -/

namespace Sys2Proof.Machine

/-- One step (R20, R160, R230): the host's next input is taken and performed. With no input the FDB waits
(R232): it never starts a step by itself (R20). -/
def step (s : State) : Host.Outcome State Fault Refusal :=
  match s.inputs with
  | [] => idleStep s
  | .rst :: rest => resetStep (s.setInputs rest)
  | .op e :: rest => exec (decode e) (s.setInputs rest)

/-- `s` with the operation of a table word as the host's next input. A word that is no operation presents
nothing. -/
def State.withFetchWord (s : State) (nbits w : Nat) : State :=
  match tableWord nbits w with
  | .ok e => s.setInputs (.op e :: s.inputs)
  | .error _ => s

end Sys2Proof.Machine
end

