-- ==== Sys2Proof/Machine/HostProgram.lean ====
section
/-! DEFINITION. The host's side (30_encoding.md R84, R85): the pseudo-instructions as the bus operations they
expand to, and host programs, an agent that drives the FDB step by step (10_state.md R20). Host statements
"touch no FDB state and have no bus encoding" (R84): `step` and `State` do not depend on this file. -/

namespace Sys2Proof.Machine

/-! ### Addresses and pseudo-instructions -/

/-- `IN+i` (R84). DESIGN CHOICE (assumption log 18): a sum past the 19-bit address space keeps its low 19 bits. -/
def inAddr (i : Nat) : Addr := BitVec.ofNat 19 (0x20000 + i)

/-- `PAY+i` (R84). DESIGN CHOICE (assumption log 18): a sum past the 19-bit address space keeps its low 19 bits. -/
def payAddr (i : Nat) : Addr := BitVec.ofNat 19 (0x40000 + i)

/-- `decode.h` (R85). -/
def decodeH : BusOp := sw 0x00 0x1

/-- `decode.m` (R85). -/
def decodeM : BusOp := sw 0x00 0x2

/-- `setlen N` (R85). DESIGN CHOICE (assumption log 18): an `N` of `2^32` or more keeps its low 32 bits. -/
def setLen (n : Nat) : BusOp := sw 0x08 (BitVec.ofNat 32 n)

/-- `load.in OFF, b0 b1 ... bk` (R85). DESIGN CHOICE (assumption log 18): `IN+i` past the window is what `inAddr` gives. -/
def loadIn (off : Nat) : List Byte → List BusOp
  | [] => []
  | b :: rest => sb (inAddr off) (b.setWidth 32) :: loadIn (off + 1) rest

/-- The bytes of a frame with class `c`, id `d`, payload `p` and checksum bytes `a`, `b` (R71, R85). DESIGN CHOICE
(assumption log 18): for a payload of more than 65535 bytes the byte `hi` keeps the low 8 bits of `m div 256`, and all
of the payload is written. -/
def frameBytes (c d : Byte) (p : List Byte) (a b : Byte) : List Byte :=
  [0xB5, 0x62, c, d, BitVec.ofNat 8 (p.length % 256), BitVec.ofNat 8 (p.length / 256)] ++ p ++ [a, b]

/-- `frame OFF, C, I, P0 ... P(m-1), A, B` (R85). -/
def loadFrame (off : Nat) (c d : Byte) (p : List Byte) (a b : Byte) : List BusOp :=
  loadIn off (frameBytes c d p a b)

/-- The bus operations of `tag V -> rK` (R85). -/
def tagOps (v : Word) : List BusOp := [sw 0x20 v, lw 0x20]

/-- What `tag V -> rK` keeps of the word read: `rK[11:8]` (R85). -/
def tagField (r : Word) : Word := (r.extractLsb' 8 4).setWidth 32

/-- The bus operation of `result -> rK` (R85). -/
def resultOps : List BusOp := [lw 0x04]

/-- What `result -> rK` keeps of the word read: `rK[2:0]` (R85). -/
def resultField (r : Word) : Word := (r.extractLsb' 0 3).setWidth 32

/-- Bus operations as the inputs of the machine. -/
def presented (ops : List BusOp) : List HostInput := ops.map fun op => .op (.bus op)

/-! ### Host programs (R84; assumption log 12) -/

/-- "Unsigned arithmetic on host variables" (R84). -/
inductive HostArith where
  | add
  | sub
  | mul
  | div
  | mod
deriving DecidableEq, Repr

/-- An expression: a constant, a variable `rK`, arithmetic, a bit field `e[hi:lo]` (R9), or `S[e]`. -/
inductive HostExpr where
  | lit (v : Word)
  | var (k : Nat)
  | op (o : HostArith) (x y : HostExpr)
  | field (e : HostExpr) (hi lo : Nat)
  | index (e : HostExpr)
deriving DecidableEq, Repr

/-- A line of a host program (R84); a label is the number of the line it stands at. -/
inductive HostStmt where
  | sw (addr value : HostExpr)
  | lw (addr : HostExpr) (k : Nat)
  | sb (addr value : HostExpr)
  | lb (addr : HostExpr) (k : Nat)
  | assign (k : Nat) (e : HostExpr)
  | beq (k : Nat) (e : HostExpr) (label : Nat)
  | bne (k : Nat) (e : HostExpr) (label : Nat)
  | jmp (label : Nat)
  | halt
deriving DecidableEq, Repr

/-- The host: its program, its constant byte table `S`, the line it is at, and its variables. -/
structure HostAgent where
  program : List HostStmt
  table : List Byte
  line : Nat
  vars : List (Nat × Word)
deriving DecidableEq, Repr

/-- A variable that has been set. -/
def HostAgent.var (h : HostAgent) (k : Nat) : Option Word := (h.vars.find? fun x => x.1 == k).map (·.2)

/-- `rK = v`. -/
def HostAgent.setVar (h : HostAgent) (k : Nat) (v : Word) : HostAgent :=
  { h with vars := (k, v) :: h.vars.filter fun x => x.1 != k }

/-- To the line after. -/
def HostAgent.advance (h : HostAgent) : HostAgent := { h with line := h.line + 1 }

/-- To a label. -/
def HostAgent.goTo (h : HostAgent) (label : Nat) : HostAgent := { h with line := label }

/-- Arithmetic modulo `2^32`; no value for a division by 0. -/
def HostArith.eval : HostArith → Word → Word → Option Word
  | .add, x, y => some (x + y)
  | .sub, x, y => some (x - y)
  | .mul, x, y => some (x * y)
  | .div, x, y => if y = 0 then none else some (x / y)
  | .mod, x, y => if y = 0 then none else some (x % y)

/-- The value of an expression: none if it uses a variable never set or an index outside `S`. -/
def HostExpr.eval (h : HostAgent) : HostExpr → Option Word
  | .lit v => some v
  | .var k => h.var k
  | .op o x y => (x.eval h).bind fun a => (y.eval h).bind fun b => o.eval a b
  | .field e hi lo => (e.eval h).map fun a => (a.extractLsb' lo (hi + 1 - lo)).setWidth 32
  | .index e => (e.eval h).bind fun a => h.table[a.toNat]?.map fun b => b.setWidth 32

/-- The value of an address expression: none if it is no host address (R50). -/
def HostExpr.evalAddr (h : HostAgent) (e : HostExpr) : Option Addr :=
  (e.eval h).bind fun a => if a.toNat < 0x80000 then some (a.setWidth 19) else none

/-- Where a host and its FDB stand after one line of the program. -/
inductive HostOutcome where
  /-- The next line, and the state of the FDB. -/
  | running (h : HostAgent) (s : State)
  /-- `halt` was reached. -/
  | halted
  /-- The FDB takes no step (R213). -/
  | stopped
  /-- An expression has no value, or no line stands at the label. -/
  | stuck
deriving DecidableEq, Repr

/-- The host presents one bus operation, the FDB takes its step, and the host goes on. -/
def HostAgent.perform (h : HostAgent) (s : State) (op : BusOp) (k : HostAgent → State → HostOutcome) :
    HostOutcome :=
  match step (s.setInputs (.op (.bus op) :: s.inputs)) with
  | .next t => k h.advance t
  | .fault _ => .stopped
  | .refused _ => .stopped

/-- A read's value goes into `rK`; a read that returned none leaves it as it was. -/
def HostAgent.keep (k : Nat) (h : HostAgent) (s : State) : HostOutcome :=
  match s.rdata with
  | some v => .running (h.setVar k v) s
  | none => .running h s

/-- One line of a host program (R84). -/
def HostAgent.next (h : HostAgent) (s : State) : HostOutcome :=
  match h.program[h.line]? with
  | none => .stuck
  | some (.sw a v) =>
    match a.evalAddr h, v.eval h with
    | some a, some v => h.perform s (Sys2Proof.sw a v) .running
    | _, _ => .stuck
  | some (.lw a k) =>
    match a.evalAddr h with
    | some a => h.perform s (Sys2Proof.lw a) (HostAgent.keep k)
    | none => .stuck
  | some (.sb a v) =>
    match a.evalAddr h, v.eval h with
    | some a, some v => h.perform s (Sys2Proof.sb a ((v.extractLsb' 0 8).setWidth 32)) .running
    | _, _ => .stuck
  | some (.lb a k) =>
    match a.evalAddr h with
    | some a => h.perform s (Sys2Proof.lb a) (HostAgent.keep k)
    | none => .stuck
  | some (.assign k e) =>
    match e.eval h with
    | some v => .running (h.setVar k v).advance s
    | none => .stuck
  | some (.beq k e label) =>
    match h.var k, e.eval h with
    | some x, some y => .running (if x = y then h.goTo label else h.advance) s
    | _, _ => .stuck
  | some (.bne k e label) =>
    match h.var k, e.eval h with
    | some x, some y => .running (if x = y then h.advance else h.goTo label) s
    | _, _ => .stuck
  | some (.jmp label) => .running (h.goTo label) s
  | some .halt => .halted

/-- Up to `fuel` lines of a host program, and where it came to: the outcome of the last line taken, with the host
and the FDB before it. -/
def HostAgent.run : Nat → HostAgent → State → HostAgent × State × HostOutcome
  | 0, h, s => (h, s, .running h s)
  | fuel + 1, h, s =>
    match h.next s with
    | .running h' s' => HostAgent.run fuel h' s'
    | o => (h, s, o)

end Sys2Proof.Machine
end

