-- ==== Sys2Proof/Safety.lean ====
section
/-! DEFINITION. What the claims are stated in: the invariant of the machine (10_state.md R40 and the register
rules R26, R32, R38), the kinds of operations, and safe runs (60_exceptions.md R213). -/

namespace Sys2Proof

/-- A write to `CMD`: the operations that run a command (R42, R62, R161). -/
def Instr.isCommand : Instr → Bool
  | .decodeHeader | .decodeMessage | .cmdReserved _ | .w32Cmd _ => true
  | .w32Status _ | .w32BufLen _ | .w32Hdr0 _ | .w32Hdr1 _ | .w32FrameLen _ | .w32HdrTag _
  | .w32PayLen _ | .w32TagArg _ | .w32Cfg _ | .w32Cap _
  | .r32Cmd | .r32Status | .r32BufLen | .r32Hdr0 | .r32Hdr1 | .r32FrameLen | .r32HdrTag
  | .r32PayLen | .r32TagArg | .r32Cfg | .r32Cap
  | .w8InBuf _ _ | .r8InBuf _ | .r8PayBuf _ | .w8PayBuf _ _
  | .r8Rsv _ | .w8Rsv _ _ | .r32Rsv _ | .w32Rsv _ _ | .r32RsvHi _ | .w32RsvHi _ _
  | .badAccess _ _ _ _ => false

/-- A host read that obeys the width rules (R62, R160). -/
def Instr.isRead : Instr → Bool
  | .r32Cmd | .r32Status | .r32BufLen | .r32Hdr0 | .r32Hdr1 | .r32FrameLen | .r32HdrTag
  | .r32PayLen | .r32TagArg | .r32Cfg | .r32Cap
  | .r8InBuf _ | .r8PayBuf _ | .r8Rsv _ | .r32Rsv _ | .r32RsvHi _ => true
  | .decodeHeader | .decodeMessage | .cmdReserved _ | .w32Cmd _
  | .w32Status _ | .w32BufLen _ | .w32Hdr0 _ | .w32Hdr1 _ | .w32FrameLen _ | .w32HdrTag _
  | .w32PayLen _ | .w32TagArg _ | .w32Cfg _ | .w32Cap _
  | .w8InBuf _ _ | .w8PayBuf _ _ | .w8Rsv _ _ | .w32Rsv _ _ | .w32RsvHi _ _
  | .badAccess _ _ _ _ => false

end Sys2Proof

namespace Sys2Proof.Machine

/-- `m` holds the bytes `bs` at indexes 0, 1, 2, …. -/
def Memory.startsWith (m : Memory) (bs : List Byte) : Prop := ∀ k v, bs[k]? = some v → m.read k = some v

/-- What every step keeps. -/
structure State.Inv (s : State) : Prop where
  /-- The parameters are in their domains (R7). -/
  params : s.cfg.wf
  /-- `0 <= buf_len <= IN_CAP` (R24, R26). -/
  bufLen_le : s.bufLen ≤ s.cfg.inCap
  /-- `IN_BUF` is in canonical form. -/
  inBuf_wf : s.inBuf.wf
  /-- Only the `IN_CAP` implemented bytes can hold a value (R27). -/
  inBuf_cap : ∀ x ∈ s.inBuf, x.1 < s.cfg.inCap
  /-- `hdr` is some iff `result = OK` (R40). -/
  hdr_iff : s.hdr.isSome = true ↔ s.result = .ok
  /-- `pay` is some iff `result = OK` and `last_op = 2` (R40). -/
  pay_iff : s.pay.isSome = true ↔ s.result = .ok ∧ s.lastOp = 2
  /-- "When valid, `SYNC0 = 0xB5` and `SYNC1 = 0x62` always hold" (R32). -/
  sync : ∀ h, s.hdr = some h → h.sync0 = 0xB5 ∧ h.sync1 = 0x62
  /-- The payload's length "equals `hdr.len` whenever both are valid" (R38). -/
  pay_len : ∀ h p, s.hdr = some h → s.pay = some p → p.length = h.len.toNat
  /-- `NONE` is produced by reset only (R31), which clears `LAST_OP` (R44). -/
  result_none : s.result = .none → s.lastOp = 0
  /-- `OK` is produced by the two decodes only (R31). -/
  result_ok : s.result = .ok → s.lastOp = 1 ∨ s.lastOp = 2
  /-- `LENGTH_MISMATCH` is produced by `DECODE_MESSAGE` only, under `STRICT_END = 1` (R205). -/
  result_mismatch : s.result = .lengthMismatch → s.lastOp = 2 ∧ s.cfg.strictEnd = true
  /-- At most one mark is recorded, since no step follows the first (R213). -/
  one_mark : s.fault = none ∨ s.refused = none

/-- A safe run of `k` steps from `s` to `t`: it takes them all, and no model fault and no refusal is recorded at its
end (R213: "Any claim about a run therefore needs `no fault and no refusal recorded` as a premise"). -/
def safeRun : Nat → State → State → Prop
  | 0, s, t => s = t ∧ t.live
  | k + 1, s, t => ∃ u, step s = .next u ∧ safeRun k u t

end Sys2Proof.Machine
end

