-- ==== Sys2Proof/Certificates/Slice0/Obligations.lean ====
section
/-! DEFINITION. The statements for the provers. Where a statement says `∃ d, … rdata := d`, the word `d` is what
the model leaves on the read port where the spec gives it no value (assumption log 4): nothing is said of it.
`s.live` says that no model fault and no refusal is recorded (60_exceptions.md R213). -/

open Sys2Proof Sys2Proof.Machine

/-! ### Encodings -/

/-- Decode and encode agree, for every operation with every operand its encoding admits (30_encoding.md R80, R82,
R83; register offsets of R25). -/
def Obligations.DecodeOfEncodeIsIdentity : Prop :=
  ∀ i : Instr, i.wf = true → decode (encode i) = i

/-- The other direction: what a command word or a bus tuple decodes to is well formed and encodes to the same word
or tuple, but for the `wdata` of a read, which is ignored (R82). -/
def Obligations.EncodeOfDecodeIsTheOperation : Prop :=
  (∀ w : Word, (decodeCommand w).wf = true ∧ encode (decodeCommand w) = .cmd w) ∧
  (∀ op : BusOp, (decodeBus op).wf = true ∧ encode (decodeBus op) = .bus op.canon)

/-- The opcode table, tried in priority order over `SEL` and over the command word, selects exactly the operation
of the decoder, and `SEL` is `wr` at bit 20, `size` at bit 19, `addr` at bits 18:0 (R82). -/
def Obligations.OpcodeTableAgreesWithDecoder : Prop :=
  (∀ op : BusOp,
    op.sel.toNat = (if op.dir = .write then 2 ^ 20 else 0) + (if op.size = .word then 2 ^ 19 else 0) + op.addr.toNat) ∧
  (∀ op : BusOp, BusOp.ofSel op.sel op.wdata = op) ∧
  (∀ op : BusOp, firstRow busRows op.sel = some (decodeBus op).mnemonic) ∧
  (∀ w : Word, firstRow commandRows w = some (decodeCommand w).mnemonic) ∧
  (∀ (op : BusOp) (w : Word), op.dir = .read → decodeBus { op with wdata := w } = decodeBus op)

/-- The width rules (R55): a bus operation decodes to `BAD_ACCESS` exactly when it is no aligned 32-bit access to the
register region, no 8-bit access to a buffer window, and no access to the upper region that is 8-bit or aligned. -/
def Obligations.OnlyWidthViolationsAreBadAccess : Prop :=
  ∀ op : BusOp, (∃ d z a w, decodeBus op = .badAccess d z a w) ↔
    ¬ (op.size = .word ∧ op.addr.toNat < 0x20000 ∧ op.addr.toNat % 4 = 0 ∨
      op.size = .byte ∧ 0x20000 ≤ op.addr.toNat ∧ op.addr.toNat < 0x60000 ∨
      0x60000 ≤ op.addr.toNat ∧ (op.size = .word → op.addr.toNat % 4 = 0))

/-- A few words of 95_test_vectors.md (program P1, vector K4, vectors A3, A4, A13) decode to their operations. -/
def Obligations.TestVectorWordsDecode : Prop :=
  decodeBus (BusOp.ofSel 0x120009 0x38) = .w8InBuf 9 0x38 ∧
  decodeBus (BusOp.ofSel 0x180008 0x0000000A) = .w32BufLen 10 ∧
  decodeBus (BusOp.ofSel 0x180000 0x00000002) = .w32Cmd 2 ∧
  decodeBus (BusOp.ofSel 0x080004 0) = .r32Status ∧
  decodeBus (BusOp.ofSel 0x040001 0) = .r8PayBuf 1 ∧
  decodeBus (BusOp.ofSel 0x08002C 0) = .r32Rsv 11 ∧
  decodeBus (BusOp.ofSel 0x060001 0) = .r8Rsv 1 ∧
  decodeBus (BusOp.ofSel 0x000004 0) = .badAccess .read .byte 4 0 ∧
  decodeCommand 0x00000001 = .decodeHeader ∧ decodeCommand 0x00000011 = .cmdReserved 0x11

/-! ### Steps -/

/-- A step with an operation as the host's next input is `exec` of the operation it decodes to, and the input is
taken; a table word placed by `withFetchWord` is the very next operation. -/
def Obligations.StepRunsTheDecodedOperation : Prop :=
  (∀ (s : State) (e : Encoded) (rest : List HostInput), s.inputs = .op e :: rest →
    step s = exec (decode e) { s with inputs := rest }) ∧
  (∀ (s : State) (nbits w : Nat) (i : Instr), decodeTableWord nbits w = some i →
    step (s.withFetchWord nbits w) = exec i s)

/-- A step keeps the parameters, which are fixed for an instance (R7), and takes one input of the host (the queue is
the model's, assumption log 2). With no input the FDB waits: it never starts a step by itself (R20); that such a step
leaves every field as it was is the model's choice (assumption log 3). -/
def Obligations.StepTakesOneInputOrWaits : Prop :=
  (∀ s t : State, step s = .next t → t.cfg = s.cfg ∧ t.inputs = s.inputs.tail) ∧
  (∀ s : State, s.live → s.inputs = [] → step s = .next s)

/-- "Once either is set, no step is possible: no host operation, no command and no reset" (R213); and while neither
is set every operation and every step is taken (R216 for operations, R230 for reset). That the marking operation itself
answers a next state is the model's reading (DEDUCED, assumption log 6), and that a step with no input is taken is the
model's choice (DESIGN CHOICE, assumption log 3). -/
def Obligations.StepPossibleIffNoMarkRecorded : Prop :=
  ∀ s : State, (∀ i : Instr, (∃ t, exec i s = .next t) ↔ s.live) ∧ ((∃ t, step s = .next t) ↔ s.live)

/-- Every step keeps the invariant of Safety.lean: the parameters in their domains, `BUF_LEN <= IN_CAP`, `IN_BUF`
canonical and within `IN_CAP`, the outputs valid exactly as R40 says, and the fields of a valid header and payload
as R32 and R38 say. -/
def Obligations.StepKeepsInvariant : Prop :=
  ∀ s t : State, s.Inv → step s = .next t → t.Inv

/-- The reset state of every instance meets the invariant. -/
def Obligations.ResetStateMeetsInvariant : Prop :=
  (∀ c : Config, c.wf → (State.resetOf c).Inv) ∧ core.reset = State.reset ∧ State.reset.Inv

/-! ### Reset -/

/-- A reset step sets every piece of state to its value of R44 and leaves the parameters alone; it is taken whenever
no mark is recorded, and the first state of every run is such a state (R230). -/
def Obligations.ResetStepSetsResetValues : Prop :=
  (∀ (s : State) (rest : List HostInput), s.inputs = .rst :: rest →
    (s.live → ∃ t, step s = .next t ∧ t.cfg = s.cfg ∧ t.bufLen = 0 ∧ (∀ i, t.inBuf.read i = none) ∧
      t.tagArg = 0x00 ∧ t.result = .none ∧ t.lastOp = 0 ∧ t.hdr = none ∧ t.pay = none ∧
      t.fault = s.fault ∧ t.refused = s.refused ∧ t.inputs = rest) ∧
    (¬ s.live → ∀ t, step s ≠ .next t)) ∧
  core.reset.bufLen = 0 ∧ (∀ i, core.reset.inBuf.read i = none) ∧ core.reset.tagArg = 0x00 ∧
  core.reset.result = .none ∧ core.reset.lastOp = 0 ∧ core.reset.hdr = none ∧ core.reset.pay = none

/-- After reset, with the default parameters, the registers read as in vector A1 of 95_test_vectors.md. -/
def Obligations.RegistersReadAfterReset : Prop :=
  exec .r32Status State.reset = .next { State.reset with rdata := some 0 } ∧
  exec .r32BufLen State.reset = .next { State.reset with rdata := some 0 } ∧
  exec .r32TagArg State.reset = .next { State.reset with rdata := some 0 } ∧
  exec .r32Cfg State.reset = .next { State.reset with rdata := some 0x19 } ∧
  exec .r32Cap State.reset = .next { State.reset with rdata := some 0x10007 } ∧
  exec .r32Cmd State.reset = .next { State.reset with rdata := some 0 }

/-! ### The decode commands -/

/-- The little-endian field unpacker (R101). -/
def Obligations.U16leIsLowPlus256High : Prop :=
  ∀ lo hi : Byte, (u16le lo hi).toNat = lo.toNat + 256 * hi.toNat

/-- `HEADER_TOO_SMALL` (R102, R202): whatever `IN_BUF` holds, written or not. -/
def Obligations.SmallBufferIsHeaderTooSmall : Prop :=
  ∀ s : State, s.live → s.bufLen < s.cfg.minBuf.bytes →
    (∃ d, exec .decodeHeader s = .next
      { s with lastOp := 1, result := .headerTooSmall, hdr := none, pay := none, rdata := d }) ∧
    (∃ d, exec .decodeMessage s = .next
      { s with lastOp := 2, result := .headerTooSmall, hdr := none, pay := none, rdata := d })

/-- `BAD_SIGNATURE` (R203): whatever the other bytes are, written or not. -/
def Obligations.WrongSignatureIsBadSignature : Prop :=
  ∀ (s : State) (b0 b1 : Byte), s.live → s.cfg.minBuf.bytes ≤ s.bufLen →
    s.inBuf.read 0 = some b0 → s.inBuf.read 1 = some b1 → ¬ (b0 = 0xB5 ∧ b1 = 0x62) →
    (∃ d, exec .decodeHeader s = .next
      { s with lastOp := 1, result := .badSignature, hdr := none, pay := none, rdata := d }) ∧
    (∃ d, exec .decodeMessage s = .next
      { s with lastOp := 2, result := .badSignature, hdr := none, pay := none, rdata := d })

/-- `BUFFER_TOO_SHORT` (R105, R204): `buf_len < 8 + L` in natural numbers, so that `L = 65535` does not wrap; no
byte after the length is read. -/
def Obligations.TruncatedFrameIsBufferTooShort : Prop :=
  ∀ (s : State) (c d lo hi : Byte), s.live → s.cfg.minBuf.bytes ≤ s.bufLen →
    s.inBuf.startsWith [0xB5, 0x62, c, d, lo, hi] → s.bufLen < 8 + (lo.toNat + 256 * hi.toNat) →
    (∃ r, exec .decodeHeader s = .next
      { s with lastOp := 1, result := .bufferTooShort, hdr := none, pay := none, rdata := r }) ∧
    (∃ r, exec .decodeMessage s = .next
      { s with lastOp := 2, result := .bufferTooShort, hdr := none, pay := none, rdata := r })

/-- `DECODE_HEADER` on a buffer that passes its checks publishes the header and no payload, whatever the payload
bytes, the trailing bytes and the checksum values are (R104, R106, R107, R110). -/
def Obligations.DecodeHeaderPublishesHeader : Prop :=
  ∀ (s : State) (c d lo hi a b : Byte), s.live → s.cfg.minBuf.bytes ≤ s.bufLen →
    s.inBuf.startsWith [0xB5, 0x62, c, d, lo, hi] → 8 + (lo.toNat + 256 * hi.toNat) ≤ s.bufLen →
    s.inBuf.read (6 + (lo.toNat + 256 * hi.toNat)) = some a →
    s.inBuf.read (7 + (lo.toNat + 256 * hi.toNat)) = some b →
    ∃ r, exec .decodeHeader s = .next
      { s with
        lastOp := 1
        result := .ok
        hdr := some { sync0 := 0xB5, sync1 := 0x62, cls := c, id := d, len := hi ++ lo, ckA := a, ckB := b }
        pay := none
        rdata := r }

/-- `DECODE_MESSAGE` on a buffer that passes its checks publishes the header and a copy of the `L` payload bytes at
offsets 6 to `5 + L` (R133, R134); under `STRICT_END = 0` trailing bytes are allowed. -/
def Obligations.DecodeMessagePublishesPayload : Prop :=
  ∀ (s : State) (c d lo hi a b : Byte) (p : List Byte), s.live → s.cfg.minBuf.bytes ≤ s.bufLen →
    s.inBuf.startsWith ([0xB5, 0x62, c, d, lo, hi] ++ p ++ [a, b]) → p.length = lo.toNat + 256 * hi.toNat →
    8 + p.length ≤ s.bufLen → (s.cfg.strictEnd = true → s.bufLen = 8 + p.length) →
    ∃ r, exec .decodeMessage s = .next
      { s with
        lastOp := 2
        result := .ok
        hdr := some { sync0 := 0xB5, sync1 := 0x62, cls := c, id := d, len := hi ++ lo, ckA := a, ckB := b }
        pay := some p
        rdata := r }

/-- `LENGTH_MISMATCH` (R132, R205): `DECODE_MESSAGE` under `STRICT_END = 1` on a buffer that does not end at the frame
end, whatever the payload bytes are; and it is raised only so: `RESULT` turns into it only by `DECODE_MESSAGE`, when
`STRICT_END = 1`, the header decodes, and `buf_len != 8 + L`. -/
def Obligations.TrailingBytesAreLengthMismatch : Prop :=
  (∀ (s : State) (c d lo hi a b : Byte), s.live → s.cfg.minBuf.bytes ≤ s.bufLen → s.cfg.strictEnd = true →
    s.inBuf.startsWith [0xB5, 0x62, c, d, lo, hi] → 8 + (lo.toNat + 256 * hi.toNat) < s.bufLen →
    s.inBuf.read (6 + (lo.toNat + 256 * hi.toNat)) = some a →
    s.inBuf.read (7 + (lo.toNat + 256 * hi.toNat)) = some b →
    ∃ r, exec .decodeMessage s = .next
      { s with lastOp := 2, result := .lengthMismatch, hdr := none, pay := none, rdata := r }) ∧
  (∀ (i : Instr) (s t : State), exec i s = .next t → s.result ≠ .lengthMismatch → t.result = .lengthMismatch →
    s.cfg.strictEnd = true ∧ (i = .decodeMessage ∨ i = .w32Cmd 2) ∧
    ∃ u h, exec .decodeHeader s = .next u ∧ u.result = .ok ∧ u.hdr = some h ∧ s.bufLen ≠ 8 + h.len.toNat)

/-- The order of the checks (R207): on a buffer whose bytes are all written, the first check that fails gives the
result, and no fault is raised. -/
def Obligations.FirstFailingCheckGivesTheResult : Prop :=
  ∀ (s : State) (byte : Nat → Byte) (len : Nat), s.live →
    (∀ k, k < s.bufLen → s.inBuf.read k = some (byte k)) → len = (byte 4).toNat + 256 * (byte 5).toNat →
    (∃ t, exec .decodeHeader s = .next t ∧ t.fault = none ∧ t.lastOp = 1 ∧
      t.result = if s.bufLen < s.cfg.minBuf.bytes then .headerTooSmall
        else if byte 0 ≠ 0xB5 ∨ byte 1 ≠ 0x62 then .badSignature
        else if s.bufLen < 8 + len then .bufferTooShort
        else .ok) ∧
    (∃ t, exec .decodeMessage s = .next t ∧ t.fault = none ∧ t.lastOp = 2 ∧
      t.result = if s.bufLen < s.cfg.minBuf.bytes then .headerTooSmall
        else if byte 0 ≠ 0xB5 ∨ byte 1 ≠ 0x62 then .badSignature
        else if s.bufLen < 8 + len then .bufferTooShort
        else if s.cfg.strictEnd = true ∧ s.bufLen ≠ 8 + len then .lengthMismatch
        else .ok)

/-- A byte of rule R109's rows that was never written stops either decode at the read that reaches it, with
`F_UNWRITTEN_INPUT` of its index and nothing else written (R109, R210). -/
def Obligations.UnwrittenHeaderByteRaisesFault : Prop :=
  ∀ (s : State) (i : Instr), s.live → s.cfg.minBuf.bytes ≤ s.bufLen → i = .decodeHeader ∨ i = .decodeMessage →
    (s.inBuf.read 0 = none →
      ∃ r, exec i s = .next { s with fault := some (.unwrittenInput 0), rdata := r }) ∧
    (s.inBuf.read 0 ≠ none → s.inBuf.read 1 = none →
      ∃ r, exec i s = .next { s with fault := some (.unwrittenInput 1), rdata := r }) ∧
    (∀ k, 2 ≤ k → k < 6 → s.inBuf.startsWith [0xB5, 0x62] → (∀ j, j < k → s.inBuf.read j ≠ none) →
      s.inBuf.read k = none →
      ∃ r, exec i s = .next { s with fault := some (.unwrittenInput k), rdata := r }) ∧
    (∀ c d lo hi : Byte, s.inBuf.startsWith [0xB5, 0x62, c, d, lo, hi] →
      8 + (lo.toNat + 256 * hi.toNat) ≤ s.bufLen →
      (s.inBuf.read (6 + (lo.toNat + 256 * hi.toNat)) = none →
        ∃ r, exec i s = .next
          { s with fault := some (.unwrittenInput (6 + (lo.toNat + 256 * hi.toNat))), rdata := r }) ∧
      (s.inBuf.read (6 + (lo.toNat + 256 * hi.toNat)) ≠ none →
        s.inBuf.read (7 + (lo.toNat + 256 * hi.toNat)) = none →
        ∃ r, exec i s = .next
          { s with fault := some (.unwrittenInput (7 + (lo.toNat + 256 * hi.toNat))), rdata := r }))

/-- The payload is read in ascending order: the first payload byte never written stops `DECODE_MESSAGE` (R133,
R134). -/
def Obligations.UnwrittenPayloadByteRaisesFault : Prop :=
  ∀ (s : State) (c d lo hi a b : Byte) (k : Nat), s.live → s.cfg.minBuf.bytes ≤ s.bufLen →
    s.inBuf.startsWith [0xB5, 0x62, c, d, lo, hi] → 8 + (lo.toNat + 256 * hi.toNat) ≤ s.bufLen →
    (s.cfg.strictEnd = true → s.bufLen = 8 + (lo.toNat + 256 * hi.toNat)) →
    s.inBuf.read (6 + (lo.toNat + 256 * hi.toNat)) = some a →
    s.inBuf.read (7 + (lo.toNat + 256 * hi.toNat)) = some b →
    k < lo.toNat + 256 * hi.toNat → (∀ j, j < k → s.inBuf.read (6 + j) ≠ none) → s.inBuf.read (6 + k) = none →
    ∃ r, exec .decodeMessage s = .next { s with fault := some (.unwrittenInput (6 + k)), rdata := r }

/-- "If `HeaderCore` returns `Err(e)`, `DECODE_MESSAGE` finishes with that same `e`" (R131); and a message that
decodes has the header that `DECODE_HEADER` gives (R130). -/
def Obligations.MessageFollowsHeader : Prop :=
  ∀ s t u : State, exec .decodeHeader s = .next t → exec .decodeMessage s = .next u →
    (t.fault = none → t.result ≠ .ok → u.fault = none ∧ u.result = t.result ∧ u.hdr = none ∧ u.pay = none) ∧
    (t.fault ≠ none → u.fault = t.fault) ∧
    (u.fault = none → u.result = .ok → t.fault = none ∧ t.result = .ok ∧ t.hdr = u.hdr)

/-- A write to `CMD` of a reserved word (R81, R206): `CMD_ERROR`, `LAST_OP = wdata[3:0]`, every output invalid. -/
def Obligations.ReservedCommandIsCommandError : Prop :=
  ∀ (s : State) (w : Word), s.live → w ≠ 0x1 → w ≠ 0x2 →
    decodeCommand w = .cmdReserved w ∧
    (∃ d, exec (.cmdReserved w) s = .next
      { s with lastOp := w.extractLsb' 0 4, result := .cmdError, hdr := none, pay := none, rdata := d }) ∧
    (∃ d, exec (.w32Cmd w) s = .next
      { s with lastOp := w.extractLsb' 0 4, result := .cmdError, hdr := none, pay := none, rdata := d })

/-- `W32 CMD` performs the command that `wdata` selects (R80, R161), and the write and the command are one step. The
last clause, that a `CMD`-format word presented alone is the same step as the bus write of it, is the model's reading of
the table's two formats (DEDUCED, assumption log 9). -/
def Obligations.CommandWriteRunsTheCommand : Prop :=
  (∀ s : State, exec (.w32Cmd 0x1) s = exec .decodeHeader s ∧ exec (.w32Cmd 0x2) s = exec .decodeMessage s) ∧
  (∀ (s : State) (w : Word), w ≠ 0x1 → w ≠ 0x2 → exec (.w32Cmd w) s = exec (.cmdReserved w) s) ∧
  (∀ (s : State) (w : Word) (rest : List HostInput),
    step { s with inputs := .op (.bus (sw 0x00 w)) :: rest } = step { s with inputs := .op (.cmd w) :: rest })

/-- After a command that raises no fault, `LAST_OP` is `wdata[3:0]` of the word (R30), `RESULT` is not `NONE` (R31:
reset only), and the outputs are valid exactly as R40 says. -/
def Obligations.CommandSetsStatus : Prop :=
  ∀ (s t : State) (w : Word), exec (.w32Cmd w) s = .next t → t.fault = none →
    t.lastOp = w.extractLsb' 0 4 ∧ t.result ≠ .none ∧
    (t.hdr.isSome = true ↔ t.result = .ok) ∧ (t.pay.isSome = true ↔ t.result = .ok ∧ w = 0x2)

/-- "After an error, no output register holds a readable value" (R209): every gated read of the state after a command
that failed raises `F_INVALID_RESULT`. -/
def Obligations.FailedCommandLeavesNoReadableOutput : Prop :=
  ∀ (i : Instr) (s t : State), i.isCommand = true → exec i s = .next t → t.fault = none → t.result ≠ .ok →
    exec .r32Hdr0 t = .next { t with fault := some (.invalidResult 0x0C), rdata := none } ∧
    exec .r32Hdr1 t = .next { t with fault := some (.invalidResult 0x10), rdata := none } ∧
    exec .r32FrameLen t = .next { t with fault := some (.invalidResult 0x14), rdata := none } ∧
    exec .r32HdrTag t = .next { t with fault := some (.invalidResult 0x18), rdata := none } ∧
    exec .r32PayLen t = .next { t with fault := some (.invalidResult 0x1C), rdata := none } ∧
    (∀ k : BitVec 17, k.toNat < 65535 → exec (.r8PayBuf k) t =
      .next { t with fault := some (.invalidResult (0x40000 + k.setWidth 19)), rdata := none })

/-- "After any command, `in_buf` and `buf_len` are unchanged" (R63); nor does a command change `TAG_ARG`, the
parameters or the refusal mark (R42, R152). -/
def Obligations.CommandsLeaveTheInputAlone : Prop :=
  ∀ (i : Instr) (s t : State), i.isCommand = true → exec i s = .next t →
    t.inBuf = s.inBuf ∧ t.bufLen = s.bufLen ∧ t.tagArg = s.tagArg ∧ t.cfg = s.cfg ∧ t.refused = s.refused ∧
    t.inputs = s.inputs

/-- Commands are idempotent (R62, R111 (d), R137 (b)): issued twice with no write in between, a command leaves the
state that it leaves once. -/
def Obligations.CommandsAreIdempotent : Prop :=
  ∀ (i : Instr) (s t : State), i.isCommand = true → exec i s = .next t → t.live →
    ∃ d, exec i t = .next { t with rdata := d }

/-- A decode sees only the bytes below `BUF_LEN` (R27, R67): two states that agree on them, on `BUF_LEN` and on the
parameters get the same result, outputs and fault from a command. -/
def Obligations.CommandsSeeOnlyBytesBelowBufLen : Prop :=
  ∀ (i : Instr) (s t : State), i.isCommand = true → s.live → t.live → t.cfg = s.cfg → t.bufLen = s.bufLen →
    (∀ k, k < s.bufLen → t.inBuf.read k = s.inBuf.read k) →
    ∃ s' t', exec i s = .next s' ∧ exec i t = .next t' ∧ t'.fault = s'.fault ∧
      (s'.fault = none → t'.result = s'.result ∧ t'.lastOp = s'.lastOp ∧ t'.hdr = s'.hdr ∧ t'.pay = s'.pay)

/-- `DECODE_HEADER` reads only the offsets of R109: 0 to 5, and `6 + L` and `7 + L` of the length it finds. -/
def Obligations.HeaderReadsOnlyListedOffsets : Prop :=
  ∀ s t : State, s.live → t.live → t.cfg = s.cfg → t.bufLen = s.bufLen →
    (∀ k, k < 6 → t.inBuf.read k = s.inBuf.read k) →
    (∀ lo hi : Byte, s.inBuf.read 4 = some lo → s.inBuf.read 5 = some hi →
      t.inBuf.read (6 + (lo.toNat + 256 * hi.toNat)) = s.inBuf.read (6 + (lo.toNat + 256 * hi.toNat)) ∧
      t.inBuf.read (7 + (lo.toNat + 256 * hi.toNat)) = s.inBuf.read (7 + (lo.toNat + 256 * hi.toNat))) →
    ∃ s' t', exec .decodeHeader s = .next s' ∧ exec .decodeHeader t = .next t' ∧ t'.fault = s'.fault ∧
      (s'.fault = none → t'.result = s'.result ∧ t'.hdr = s'.hdr)

/-- The class byte never gates a decode (R153): changing it changes `CLASS` of a header that decodes, and nothing
else. -/
def Obligations.ClassByteNeverGatesDecoding : Prop :=
  ∀ (i : Instr) (s t : State) (c : Byte), i.isCommand = true → s.live → t.live → t.cfg = s.cfg →
    t.bufLen = s.bufLen → (∀ k, k ≠ 2 → t.inBuf.read k = s.inBuf.read k) → s.inBuf.read 2 ≠ none →
    t.inBuf.read 2 = some c →
    ∃ s' t', exec i s = .next s' ∧ exec i t = .next t' ∧ t'.fault = s'.fault ∧
      (s'.fault = none → t'.result = s'.result ∧ t'.lastOp = s'.lastOp ∧ t'.pay = s'.pay ∧
        t'.hdr = s'.hdr.map fun h => { h with cls := c })

/-- Under `STRICT_END = 1` an accepted message ends exactly at the buffer's end, and the buffer-end rule (offset 6 to
`buf_len - 2`) gives the same payload (R136). -/
def Obligations.StrictEndMakesBothSlicingRulesAgree : Prop :=
  ∀ s t : State, s.cfg.strictEnd = true → exec .decodeMessage s = .next t → t.fault = none → t.result = .ok →
    ∃ h p, t.hdr = some h ∧ t.pay = some p ∧ s.bufLen = 8 + h.len.toNat ∧ p.length = s.bufLen - 8 ∧
      ∀ (k : Nat) (v : Byte), p[k]? = some v ↔ 6 + k < s.bufLen - 2 ∧ s.inBuf.read (6 + k) = some v

/-- The round trip (R111 (c), R137 (a)): a buffer that holds exactly a frame, built from any class, id, payload and
checksum bytes, decodes to exactly those, by either command, in either format, and under either `STRICT_END`. -/
def Obligations.FrameRoundTrip : Prop :=
  ∀ (s : State) (c d a b : Byte) (p : List Byte), s.live → p.length ≤ 65535 →
    s.inBuf.startsWith (frameBytes c d p a b) → s.bufLen = 8 + p.length → s.cfg.minBuf.bytes ≤ s.bufLen →
    ∃ h : Header, h = { sync0 := 0xB5, sync1 := 0x62, cls := c, id := d, len := BitVec.ofNat 16 p.length, ckA := a, ckB := b } ∧
      (∀ i, i = .decodeHeader ∨ i = .w32Cmd 0x1 → ∃ r, exec i s = .next
        { s with lastOp := 1, result := .ok, hdr := some h, pay := none, rdata := r }) ∧
      (∀ i, i = .decodeMessage ∨ i = .w32Cmd 0x2 → ∃ r, exec i s = .next
        { s with lastOp := 2, result := .ok, hdr := some h, pay := some p, rdata := r })

/-- The use sequence of R233, for every frame that fits: the host writes the frame's bytes, `BUF_LEN` and `CMD`, and
the run is safe and ends with the frame's header and payload published, whatever the buffer held before. -/
def Obligations.LoadedFrameDecodes : Prop :=
  ∀ (s : State) (c d a b : Byte) (p : List Byte), s.live → s.cfg.wf → p.length ≤ 65535 →
    s.cfg.minBuf.bytes ≤ 8 + p.length → 8 + p.length ≤ s.cfg.inCap →
    s.inputs = presented (loadFrame 0 c d p a b ++ [setLen (8 + p.length), decodeM]) →
    ∃ t, safeRun (p.length + 10) s t ∧ t.inputs = [] ∧ t.bufLen = 8 + p.length ∧ t.result = .ok ∧ t.lastOp = 2 ∧
      t.pay = some p ∧
      t.hdr = some { sync0 := 0xB5, sync1 := 0x62, cls := c, id := d, len := BitVec.ofNat 16 p.length, ckA := a, ckB := b }

/-- The pseudo-instructions that read (R85): `tag V -> rK` gives the class tag of `V[7:0]`, whatever was stored before,
and `result -> rK` the code of `RESULT`; both are safe runs. -/
def Obligations.PseudoInstructionsReturnTheirFields : Prop :=
  (∀ (s : State) (v : Word), s.live → s.inputs = presented (tagOps v) →
    ∃ t w, safeRun 2 s t ∧ t.rdata = some w ∧ tagField w = (classTag (v.extractLsb' 0 8)).setWidth 32) ∧
  (∀ s : State, s.live → s.inputs = presented resultOps →
    ∃ t w, safeRun 1 s t ∧ t.rdata = some w ∧ resultField w = s.result.code.setWidth 32)

/-! ### Frames over all operations -/

/-- Results are a snapshot (R64): an operation that is no write to `CMD` leaves `RESULT`, `LAST_OP` and every output
as they were. -/
def Obligations.OutputsAreASnapshot : Prop :=
  ∀ (i : Instr) (s t : State), i.isCommand = false → exec i s = .next t →
    t.result = s.result ∧ t.lastOp = s.lastOp ∧ t.hdr = s.hdr ∧ t.pay = s.pay

/-- Host reads have no side effects (R62): a read changes nothing but what it returns, or records a model fault; and
one repeated returns the same value. -/
def Obligations.ReadsHaveNoSideEffects : Prop :=
  ∀ (i : Instr) (s t : State), i.isRead = true → exec i s = .next t →
    t = { s with rdata := t.rdata, fault := t.fault } ∧
    (t.fault = none → t.rdata ≠ none ∧ exec i t = .next t) ∧ (t.fault ≠ none → t.rdata = none)

/-- The one writer of each input register and of `IN_BUF` (R62, R163, R167, R171): `BUF_LEN` is changed by `W32 BUF_LEN`
only, `TAG_ARG` by `W32 TAG_ARG` only, byte `k` of `IN_BUF` by `W8 IN_BUF` at `k` only. -/
def Obligations.EachInputHasOneWriter : Prop :=
  ∀ (i : Instr) (s t : State), exec i s = .next t →
    t.cfg = s.cfg ∧ t.inputs = s.inputs ∧
    (t.bufLen ≠ s.bufLen → ∃ w, i = .w32BufLen w) ∧
    (t.tagArg ≠ s.tagArg → ∃ w, i = .w32TagArg w) ∧
    (∀ k, t.inBuf.read k ≠ s.inBuf.read k → ∃ j w, i = .w8InBuf j w ∧ j.toNat = k)

/-- A raise records the fault and writes nothing else (R11, R214), for every operation that raises one. Of what is then
on the read port nothing is said here. -/
def Obligations.FaultingStepWritesNothingElse : Prop :=
  ∀ (i : Instr) (s t : State), exec i s = .next t → t.fault ≠ none →
    t = { s with fault := t.fault, rdata := t.rdata }

/-- The refusal reasons (R212): each is recorded by its own operation only, which has no other effect. -/
def Obligations.RefusalsAreThoseOfTheSpec : Prop :=
  ∀ (i : Instr) (s t : State), exec i s = .next t →
    (t.refused = some .badAccess ↔ ∃ d z a w, i = .badAccess d z a w) ∧
    (t.refused = some .lenOverCap ↔ ∃ w, i = .w32BufLen w ∧ s.cfg.inCap < w.toNat) ∧
    (t.refused ≠ none → ∃ d, t = { s with refused := t.refused, rdata := d })

/-- The model faults (R67, R210, R211): `F_UNWRITTEN_INPUT(k)` only from a command, for a byte below `BUF_LEN` never
written; `F_UNWRITTEN_READ(k)` only from `R8 IN_BUF` of such a byte; `F_INVALID_RESULT(a)` only from a read at address
`a` of an output that is not valid. -/
def Obligations.FaultsAreThoseOfTheSpec : Prop :=
  ∀ (i : Instr) (s t : State), exec i s = .next t →
    (∀ k, t.fault = some (.unwrittenInput k) → i.isCommand = true ∧ k < s.bufLen ∧ s.inBuf.read k = none) ∧
    (∀ k, t.fault = some (.unwrittenRead k) → ∃ j, i = .r8InBuf j ∧ j.toNat = k ∧ s.inBuf.read k = none) ∧
    (∀ a, t.fault = some (.invalidResult a) →
      (encode i = .bus (lw a) ∧ s.hdr = none ∧ (a = 0x0C ∨ a = 0x10 ∨ a = 0x14 ∨ a = 0x18)) ∨
      (i = .r32PayLen ∧ s.pay = none ∧ a = 0x1C) ∨
      (∃ j, i = .r8PayBuf j ∧ encode i = .bus (lb a) ∧ s.payByte j.toNat = none))

/-! ### Register reads and writes -/

/-- `R32 CMD` (R162): 0, and nothing changes. -/
def Obligations.CmdReadReturnsZero : Prop :=
  ∀ s : State, s.live → exec .r32Cmd s = .next { s with rdata := some 0x00000000 }

/-- `R32 STATUS` (R165), in every live state, with the codes of R31. -/
def Obligations.StatusReadReturnsItsFields : Prop :=
  ∀ s : State, s.live → ∃ w : Word, exec .r32Status s = .next { s with rdata := some w } ∧
    w.extractLsb' 0 3 = (match s.result with
      | .none => 0 | .ok => 1 | .headerTooSmall => 2 | .badSignature => 3
      | .bufferTooShort => 4 | .lengthMismatch => 5 | .cmdError => 6) ∧
    w.getLsbD 3 = s.hdr.isSome ∧ w.getLsbD 4 = s.pay.isSome ∧ w.getLsbD 5 = false ∧
    w.extractLsb' 6 2 = 0 ∧ w.extractLsb' 8 4 = s.lastOp ∧ w.extractLsb' 12 20 = 0

/-- `W32 BUF_LEN` (R163): a length up to `IN_CAP` is stored, a greater one is refused; nothing else changes. -/
def Obligations.BufLenWriteStoresOrRefuses : Prop :=
  ∀ (s : State) (w : Word), s.live →
    (w.toNat ≤ s.cfg.inCap → ∃ d, exec (.w32BufLen w) s = .next { s with bufLen := w.toNat, rdata := d }) ∧
    (s.cfg.inCap < w.toNat →
      ∃ d, exec (.w32BufLen w) s = .next { s with refused := some .lenOverCap, rdata := d })

/-- `R32 BUF_LEN` returns `zext_32(buf_len)` (R164), for a length within any `IN_CAP` (R7, R26). -/
def Obligations.BufLenReadReturnsLength : Prop :=
  ∀ s : State, s.live → s.bufLen ≤ 131072 →
    ∃ w : Word, exec .r32BufLen s = .next { s with rdata := some w } ∧ w.toNat = s.bufLen

/-- `W32 TAG_ARG` stores `wdata[7:0]` and ignores the rest (R167). -/
def Obligations.TagArgWriteStoresLowByte : Prop :=
  ∀ (s : State) (w : Word), s.live →
    ∃ d, exec (.w32TagArg w) s = .next { s with tagArg := w.extractLsb' 0 8, rdata := d }

/-- `R32 TAG_ARG` (R168, R152): `ARG` in bits 7:0, `CODE = ClassTag(ARG)` in bits 11:8, zeros above. -/
def Obligations.TagArgReadReturnsArgAndCode : Prop :=
  ∀ s : State, s.live → ∃ w : Word, exec .r32TagArg s = .next { s with rdata := some w } ∧
    w.extractLsb' 0 8 = s.tagArg ∧ w.extractLsb' 8 4 = classTag s.tagArg ∧ w.extractLsb' 12 20 = 0

/-- `ClassTag` (R151): the nine codes, and 0 for every other byte. -/
def Obligations.ClassTagTable : Prop :=
  classTag 0x01 = 1 ∧ classTag 0x02 = 2 ∧ classTag 0x04 = 3 ∧ classTag 0x05 = 4 ∧ classTag 0x06 = 5 ∧
  classTag 0x0A = 6 ∧ classTag 0x0B = 7 ∧ classTag 0x0D = 8 ∧ classTag 0x10 = 9 ∧
  ∀ b : Byte, b ∉ [0x01, 0x02, 0x04, 0x05, 0x06, 0x0A, 0x0B, 0x0D, 0x10] → classTag b = 0

/-- `R32 CFG` and `R32 CAP` (R169) return the parameters, for every instance whose parameters are in their domains
(R7); with the defaults 0x19 and 0x10007. -/
def Obligations.ParameterReadsReturnThem : Prop :=
  (∀ s : State, s.live → s.cfg.wf →
    (∃ w : Word, exec .r32Cfg s = .next { s with rdata := some w } ∧
      (w.extractLsb' 0 4).toNat = s.cfg.minBuf.bytes ∧ w.getLsbD 4 = s.cfg.strictEnd ∧ w.extractLsb' 5 27 = 0) ∧
    (∃ w : Word, exec .r32Cap s = .next { s with rdata := some w } ∧ w.toNat = s.cfg.inCap)) ∧
  (∀ s : State, s.live → s.cfg = Config.default →
    exec .r32Cfg s = .next { s with rdata := some 0x00000019 } ∧
    exec .r32Cap s = .next { s with rdata := some 0x00010007 })

/-- A valid header reads as its fields (R32, R33, R34, R37, R166): the frame's first four bytes from the low byte up,
the length and the checksum bytes, the frame boundary `8 + L`, and the class tag. -/
def Obligations.HeaderRegistersReturnTheirFields : Prop :=
  ∀ (s : State) (h : Header), s.live → s.hdr = some h →
    (∃ w : Word, exec .r32Hdr0 s = .next { s with rdata := some w } ∧ w.extractLsb' 0 8 = h.sync0 ∧
      w.extractLsb' 8 8 = h.sync1 ∧ w.extractLsb' 16 8 = h.cls ∧ w.extractLsb' 24 8 = h.id) ∧
    (∃ w : Word, exec .r32Hdr1 s = .next { s with rdata := some w } ∧ w.extractLsb' 0 16 = h.len ∧
      w.extractLsb' 16 8 = h.ckA ∧ w.extractLsb' 24 8 = h.ckB) ∧
    (∃ w : Word, exec .r32FrameLen s = .next { s with rdata := some w } ∧ w.toNat = 8 + h.len.toNat) ∧
    (∃ w : Word, exec .r32HdrTag s = .next { s with rdata := some w } ∧
      w.extractLsb' 0 4 = classTag h.cls ∧ w.extractLsb' 4 28 = 0)

/-- A valid payload's length reads in `PAY_LEN` (R38, R166), for a payload that a frame can carry (R28). -/
def Obligations.PayLenReadReturnsLength : Prop :=
  ∀ (s : State) (p : List Byte), s.live → s.pay = some p → p.length ≤ 65535 →
    ∃ w : Word, exec .r32PayLen s = .next { s with rdata := some w } ∧ w.toNat = p.length

/-- A read of an output that is not valid records `F_INVALID_RESULT` of its address and returns no value (R41,
R211). -/
def Obligations.InvalidOutputReadRaisesFault : Prop :=
  ∀ s : State, s.live →
    (s.hdr = none →
      exec .r32Hdr0 s = .next { s with fault := some (.invalidResult 0x0C), rdata := none } ∧
      exec .r32Hdr1 s = .next { s with fault := some (.invalidResult 0x10), rdata := none } ∧
      exec .r32FrameLen s = .next { s with fault := some (.invalidResult 0x14), rdata := none } ∧
      exec .r32HdrTag s = .next { s with fault := some (.invalidResult 0x18), rdata := none }) ∧
    (s.pay = none → exec .r32PayLen s = .next { s with fault := some (.invalidResult 0x1C), rdata := none }) ∧
    (∀ i : BitVec 17, i.toNat < 65535 → s.pay = none ∨ (∃ p, s.pay = some p ∧ p.length ≤ i.toNat) →
      exec (.r8PayBuf i) s =
        .next { s with fault := some (.invalidResult (0x40000 + i.setWidth 19)), rdata := none })

/-- A write to a read-only register (R170) or to `PAY_BUF` (R174) changes nothing and never faults, whatever the valid
bits are. -/
def Obligations.ReadOnlyWritesAreIgnored : Prop :=
  ∀ (s : State) (r : Instr) (i : BitVec 17) (w : Word), s.live →
    r ∈ [.w32Status w, .w32Hdr0 w, .w32Hdr1 w, .w32FrameLen w, .w32HdrTag w, .w32PayLen w, .w32Cfg w, .w32Cap w,
      .w8PayBuf i w] →
    ∃ d, exec r s = .next { s with rdata := d }

/-! ### The buffers and the reserved addresses -/

/-- `W8 IN_BUF` (R171): byte `i` becomes `wdata[7:0]`; every other byte and everything else stays. -/
def Obligations.InBufWriteSetsOneByte : Prop :=
  ∀ (s : State) (i : BitVec 17) (w : Word), s.live → i.toNat < s.cfg.inCap →
    ∃ m d, exec (.w8InBuf i w) s = .next { s with inBuf := m, rdata := d } ∧
      m.read i.toNat = some (w.extractLsb' 0 8) ∧ ∀ k, k ≠ i.toNat → m.read k = s.inBuf.read k

/-- `R8 IN_BUF` (R172), whatever `BUF_LEN` is: a written byte is returned, an unwritten one raises
`F_UNWRITTEN_READ`. -/
def Obligations.InBufReadReturnsByteOrFaults : Prop :=
  ∀ (s : State) (i : BitVec 17), s.live → i.toNat < s.cfg.inCap →
    (∀ v, s.inBuf.read i.toNat = some v → exec (.r8InBuf i) s = .next { s with rdata := some (v.setWidth 32) }) ∧
    (s.inBuf.read i.toNat = none →
      exec (.r8InBuf i) s = .next { s with fault := some (.unwrittenRead i.toNat), rdata := none })

/-- A byte written to `IN_BUF` reads back, and a later write elsewhere does not disturb it (R60, R171, R172). -/
def Obligations.InBufReadsBackWhatWasWritten : Prop :=
  ∀ (s t u : State) (i j : BitVec 17) (v w : Word), i.toNat < s.cfg.inCap → j ≠ i →
    exec (.w8InBuf i v) s = .next t → exec (.w8InBuf j w) t = .next u →
    exec (.r8InBuf i) u = .next { u with rdata := some ((v.extractLsb' 0 8).setWidth 32) }

/-- `R8 PAY_BUF` (R173): a valid byte is returned, any other raises `F_INVALID_RESULT` of its address. -/
def Obligations.PayBufReadReturnsByteOrFaults : Prop :=
  ∀ (s : State) (i : BitVec 17), s.live → i.toNat < 65535 →
    (∀ p v, s.pay = some p → p[i.toNat]? = some v →
      exec (.r8PayBuf i) s = .next { s with rdata := some (v.setWidth 32) }) ∧
    (s.pay = none ∨ (∃ p, s.pay = some p ∧ p.length ≤ i.toNat) →
      exec (.r8PayBuf i) s =
        .next { s with fault := some (.invalidResult (0x40000 + i.setWidth 19)), rdata := none })

/-- Reserved addresses (R52, R53, R54, R175): reads return 0 and writes change nothing, at the unlisted offsets, in the
upper region, and at the buffer indexes that no byte implements. -/
def Obligations.ReservedAddressesReadZeroIgnoreWrites : Prop :=
  ∀ s : State, s.live →
    (∀ (i : BitVec 17) (k : BitVec 15) (r : Instr), r ∈ [.r8Rsv i, .r32Rsv k, .r32RsvHi k] →
      exec r s = .next { s with rdata := some 0x00000000 }) ∧
    (∀ (i : BitVec 17) (k : BitVec 15) (w : Word) (r : Instr), r ∈ [.w8Rsv i w, .w32Rsv k w, .w32RsvHi k w] →
      ∃ d, exec r s = .next { s with rdata := d }) ∧
    (∀ i : BitVec 17, s.cfg.inCap ≤ i.toNat →
      exec (.r8InBuf i) s = .next { s with rdata := some 0x00000000 } ∧
      ∀ w, ∃ d, exec (.w8InBuf i w) s = .next { s with rdata := d }) ∧
    (∀ i : BitVec 17, 65535 ≤ i.toNat →
      exec (.r8PayBuf i) s = .next { s with rdata := some 0x00000000 } ∧
      ∀ w, ∃ d, exec (.w8PayBuf i w) s = .next { s with rdata := d })

/-- An operation that breaks the width rules records `R_BAD_ACCESS` and has no other effect (R176): an 8-bit access in
the register region, a 32-bit access in a buffer window, a 32-bit access at an address that is no multiple of 4. -/
def Obligations.BadAccessIsRefused : Prop :=
  ∀ s : State, s.live →
    (∀ (d : Dir) (z : Size) (a : Addr) (w : Word),
      ∃ r, exec (.badAccess d z a w) s = .next { s with refused := some .badAccess, rdata := r }) ∧
    (∀ op : BusOp,
      op.size = .byte ∧ op.addr.toNat < 0x20000 ∨
      op.size = .word ∧ 0x20000 ≤ op.addr.toNat ∧ op.addr.toNat < 0x60000 ∨
      op.size = .word ∧ op.addr.toNat % 4 ≠ 0 →
      ∃ r, exec (decodeBus op) s = .next { s with refused := some .badAccess, rdata := r })
end

