-- ==== Sys2Proof/Laws/Flags.lean ====
section
/-! SUPPORT. Fields of concatenated bit vectors, to take the register words of Machine/Flags.lean apart. -/

namespace Sys2Proof.Machine

variable {n m k l : Nat}

/-- The low part of a concatenation. -/
theorem extract_append_all (a : BitVec n) (b : BitVec m) : (a ++ b).extractLsb' 0 m = b := by
  apply BitVec.eq_of_getLsbD_eq
  intro i hi
  simp [BitVec.getLsbD_append, hi]

/-- A field inside the low part of a concatenation. -/
theorem extract_append_low (a : BitVec n) (b : BitVec m) (h : k + l ≤ m) :
    (a ++ b).extractLsb' k l = b.extractLsb' k l := by
  apply BitVec.eq_of_getLsbD_eq
  intro i hi
  have : k + i < m := by omega
  simp [BitVec.getLsbD_append, hi, this]

/-- A field inside the high part of a concatenation. -/
theorem extract_append_high (a : BitVec n) (b : BitVec m) (h : m ≤ k) :
    (a ++ b).extractLsb' k l = a.extractLsb' (k - m) l := by
  apply BitVec.eq_of_getLsbD_eq
  intro i hi
  have : ¬ k + i < m := by omega
  simp only [BitVec.getLsbD_extractLsb', hi, BitVec.getLsbD_append, this, decide_true,
    Bool.true_and, ↓reduceIte]
  congr 1
  omega

/-- A field that is the whole vector. -/
theorem extract_all (a : BitVec n) : a.extractLsb' 0 n = a := by
  apply BitVec.eq_of_getLsbD_eq
  intro i hi
  simp [hi]

/-- A zero-extended word has the number of its low part. -/
theorem zero_append_toNat (a : BitVec m) : (0#n ++ a).toNat = a.toNat := by
  rw [BitVec.toNat_append]
  simp

end Sys2Proof.Machine
end

