-- ==== Sys2Proof/Laws/Decode.lean ====
section
/-! SUPPORT. The fields of the addresses that the encoder builds, and of the selector that the opcode table's
rows match. -/

namespace Sys2Proof

/-- The base of a region (R51). -/
def Region.base : Region → Nat
  | .registers => 0
  | .inBuf => 0x20000
  | .payBuf => 0x40000
  | .upper => 0x60000

/-- `byteAddr` adds the index to the base. -/
theorem byteAddr_toNat (r : Region) (i : BitVec 17) : (byteAddr r i).toNat = r.base + i.toNat := by
  have := i.isLt
  cases r <;> simp [byteAddr, Region.base] <;> omega

/-- The region of an address built in it. -/
@[simp] theorem regionOf_byteAddr (r : Region) (i : BitVec 17) : regionOf (byteAddr r i) = r := by
  have := i.isLt
  have h := byteAddr_toNat r i
  unfold regionOf
  cases r <;> simp only [Region.base] at h
  · rw [if_pos (by omega)]
  · rw [if_neg (by omega), if_pos (by omega)]
  · rw [if_neg (by omega), if_neg (by omega), if_pos (by omega)]
  · rw [if_neg (by omega), if_neg (by omega), if_neg (by omega)]

/-- The index of an address built with it. -/
@[simp] theorem byteIndex_byteAddr (r : Region) (i : BitVec 17) : byteIndex (byteAddr r i) = i := by
  have := i.isLt
  apply BitVec.eq_of_toNat_eq
  rw [byteIndex, BitVec.extractLsb'_toNat, byteAddr_toNat]
  cases r <;> simp only [Region.base, Nat.shiftRight_zero] <;> omega

/-- The byte address of word `k` is `4 * k` into the region. -/
theorem wordAddr_toNat (r : Region) (k : BitVec 15) : (wordAddr r k).toNat = r.base + 4 * k.toNat := by
  have := k.isLt
  rw [wordAddr, byteAddr_toNat]
  simp only [BitVec.toNat_shiftLeft, BitVec.toNat_setWidth, Nat.shiftLeft_eq]
  omega

/-- The region of a word address. -/
@[simp] theorem regionOf_wordAddr (r : Region) (k : BitVec 15) : regionOf (wordAddr r k) = r :=
  regionOf_byteAddr r _

/-- A word address is a multiple of 4. -/
@[simp] theorem isAligned_wordAddr (r : Region) (k : BitVec 15) : isAligned (wordAddr r k) = true := by
  rw [isAligned, wordAddr_toNat]
  cases r <;> simp only [Region.base, beq_iff_eq] <;> omega

/-- The word index of a word address. -/
@[simp] theorem wordIndex_wordAddr (r : Region) (k : BitVec 15) : wordIndex (wordAddr r k) = k := by
  have := k.isLt
  apply BitVec.eq_of_toNat_eq
  rw [wordIndex, BitVec.extractLsb'_toNat, wordAddr_toNat, Nat.shiftRight_eq_div_pow]
  cases r <;> simp only [Region.base] <;> omega

/-- An address is the one its region and its index build. -/
theorem byteAddr_byteIndex (a : Addr) : byteAddr (regionOf a) (byteIndex a) = a := by
  have := a.isLt
  apply BitVec.eq_of_toNat_eq
  rw [byteAddr_toNat, byteIndex, BitVec.extractLsb'_toNat]
  unfold regionOf
  split_ifs <;> simp only [Region.base, Nat.shiftRight_zero] <;> omega

/-- An aligned address is the one its region and its word index build. -/
theorem wordAddr_wordIndex {a : Addr} (h : isAligned a = true) : wordAddr (regionOf a) (wordIndex a) = a := by
  have := a.isLt
  rw [isAligned, beq_iff_eq] at h
  apply BitVec.eq_of_toNat_eq
  rw [wordAddr_toNat, wordIndex, BitVec.extractLsb'_toNat, Nat.shiftRight_eq_div_pow]
  unfold regionOf
  split_ifs <;> simp only [Region.base] <;> omega

/-! ### The rows of the opcode table, which fix the selector's top four bits and some of its low seventeen -/

/-- A row's match, in the top four bits of the selector and in its low seventeen. -/
theorem row_match_split (c : BitVec 4) (i : BitVec 17) (m v : BitVec 21) :
    ((c ++ i) &&& m == v) =
      ((c &&& m.extractLsb' 17 4 == v.extractLsb' 17 4) && (i &&& m.extractLsb' 0 17 == v.extractLsb' 0 17)) := by
  have key : ∀ x y : BitVec 21, x = y ↔ x.extractLsb' 17 4 = y.extractLsb' 17 4 ∧
      x.extractLsb' 0 17 = y.extractLsb' 0 17 := by
    intro x y
    constructor
    · rintro rfl
      exact ⟨rfl, rfl⟩
    · rintro ⟨h1, h2⟩
      rw [← BitVec.toNat_inj] at *
      simp only [BitVec.extractLsb'_toNat, Nat.shiftRight_eq_div_pow] at *
      have := x.isLt
      have := y.isLt
      omega
  rw [Bool.eq_iff_iff, beq_iff_eq, key, Bool.and_eq_true, beq_iff_eq, beq_iff_eq, BitVec.extractLsb'_and,
    BitVec.extractLsb'_and, Machine.extract_append_all, Machine.extract_append_high _ _ (by decide), Nat.sub_self,
    Machine.extract_all]

/-- The selector: direction, size and region, then the index inside the region. -/
theorem sel_split (op : BusOp) :
    op.sel = (((op.dir.bit ++ op.size.bit ++ op.addr.extractLsb' 17 2 : BitVec 4) ++ byteIndex op.addr : BitVec 21)) := by
  unfold BusOp.sel byteIndex
  apply BitVec.eq_of_getLsbD_eq
  intro k hk
  simp only [BitVec.getLsbD_append, BitVec.getLsbD_extractLsb']
  by_cases h : k < 17
  · simp [h, show k < 19 by omega]
  · by_cases h2 : k < 19
    · simp [h, h2, show k - 17 < 2 by omega, show 17 + (k - 17) = k by omega]
    · simp [h, h2, show ¬ k - 17 < 2 by omega, show k - 17 - 2 = k - 19 by omega]

/-- The region of an address is its top two bits. -/
theorem regionOf_eq (a : Addr) : regionOf a =
    if (a.extractLsb' 17 2).toNat = 0 then .registers
    else if (a.extractLsb' 17 2).toNat = 1 then .inBuf
    else if (a.extractLsb' 17 2).toNat = 2 then .payBuf
    else .upper := by
  have := a.isLt
  simp only [regionOf, BitVec.extractLsb'_toNat, Nat.shiftRight_eq_div_pow]
  split_ifs <;> first | rfl | (exfalso; omega)

/-- The mask of the low two bits tells an aligned address. -/
theorem byteIndex_and_three (a : Addr) : (byteIndex a &&& 3 == 0) = isAligned a := by
  rw [Bool.eq_iff_iff]
  simp only [beq_iff_eq, isAligned, byteIndex, ← BitVec.toNat_inj, BitVec.toNat_and, BitVec.extractLsb'_toNat]
  rw [show (3 : BitVec 17).toNat = 2 ^ 2 - 1 from rfl, Nat.and_two_pow_sub_one_eq_mod, Nat.shiftRight_zero,
    show (0 : BitVec 17).toNat = 0 from rfl]
  omega

end Sys2Proof
end

