-- ==== Sys2Proof/Laws/Memory.lean ====
section
/-! SUPPORT. The laws of `IN_BUF`: a read after a write, and the canonical form (every operation keeps it). -/

namespace Sys2Proof.Machine

/-- The empty memory, that of reset, is in canonical form. -/
theorem Memory.empty_wf : Memory.wf [] := List.Pairwise.nil

/-- Nothing is written in the empty memory. -/
@[simp] theorem Memory.read_empty (i : Nat) : Memory.read [] i = none := rfl

/-- A read gives the byte just written there. -/
@[simp] theorem Memory.read_write_same (m : Memory) (i : Nat) (v : Byte) : (m.write i v).read i = some v := by
  induction m with
  | nil => simp [Memory.write, Memory.read]
  | cons x m ih =>
    obtain ⟨k, w⟩ := x
    simp only [Memory.write]
    split
    · simp [Memory.read]
    · split
      · simp [Memory.read]
      · rename_i h
        simp [Memory.read, ih, Ne.symm h]

/-- A write leaves every other byte as it was. -/
theorem Memory.read_write_other (m : Memory) {i j : Nat} (v : Byte) (h : j ≠ i) :
    (m.write i v).read j = m.read j := by
  induction m with
  | nil => simp [Memory.write, Memory.read, Ne.symm h]
  | cons x m ih =>
    obtain ⟨k, w⟩ := x
    simp only [Memory.write]
    split
    · simp [Memory.read, Ne.symm h]
    · split
      · subst_vars
        simp [Memory.read, Ne.symm h]
      · simp [Memory.read, ih]

/-- The indexes listed after a write: those before it, and the one written. -/
theorem Memory.mem_write {m : Memory} {i : Nat} {v : Byte} {x : Host.Cell} (h : x ∈ m.write i v) :
    x = (i, v) ∨ x ∈ m := by
  induction m with
  | nil => simpa [Memory.write] using h
  | cons y m ih =>
    obtain ⟨k, w⟩ := y
    simp only [Memory.write] at h
    split at h
    · simpa using h
    · split at h
      · simp only [List.mem_cons] at h ⊢
        tauto
      · simp only [List.mem_cons] at h ⊢
        rcases h with h | h
        · exact .inr (.inl h)
        · exact (ih h).imp_right .inr

/-- A write keeps the canonical form. -/
theorem Memory.write_wf {m : Memory} (h : m.wf) (i : Nat) (v : Byte) : (m.write i v).wf := by
  induction m with
  | nil => exact List.pairwise_singleton _ _
  | cons x m ih =>
    obtain ⟨k, w⟩ := x
    obtain ⟨hx, hm⟩ := List.pairwise_cons.mp h
    simp only [Memory.write]
    split
    · rename_i hik
      refine List.pairwise_cons.mpr ⟨fun y hy => ?_, h⟩
      rcases List.mem_cons.mp hy with rfl | hy
      · exact hik
      · exact Nat.lt_trans hik (hx y hy)
    · split
      · rename_i hik
        exact List.pairwise_cons.mpr ⟨fun y hy => hik ▸ hx y hy, hm⟩
      · refine List.pairwise_cons.mpr ⟨fun y hy => ?_, ih hm⟩
        rcases Memory.mem_write hy with rfl | hy
        · simp only
          omega
        · exact hx y hy

/-- A write below the capacity lists no index at or above it. -/
theorem Memory.write_below {m : Memory} {cap i : Nat} (h : ∀ x ∈ m, x.1 < cap) (hi : i < cap) (v : Byte) :
    ∀ x ∈ m.write i v, x.1 < cap := by
  intro x hx
  rcases Memory.mem_write hx with rfl | hx
  · exact hi
  · exact h x hx

end Sys2Proof.Machine
end

