-- ==== Sys2Proof/Laws/State.lean ====
section
/-! SUPPORT. One lemma for each field under each update of the state, so that no proof unfolds an update. -/

namespace Sys2Proof.Machine

variable (s : State)

@[simp] theorem State.setBufLen_cfg (n : Nat) : (s.setBufLen n).cfg = s.cfg := rfl
@[simp] theorem State.setBufLen_bufLen (n : Nat) : (s.setBufLen n).bufLen = n := rfl
@[simp] theorem State.setBufLen_inBuf (n : Nat) : (s.setBufLen n).inBuf = s.inBuf := rfl
@[simp] theorem State.setBufLen_tagArg (n : Nat) : (s.setBufLen n).tagArg = s.tagArg := rfl
@[simp] theorem State.setBufLen_result (n : Nat) : (s.setBufLen n).result = s.result := rfl
@[simp] theorem State.setBufLen_lastOp (n : Nat) : (s.setBufLen n).lastOp = s.lastOp := rfl
@[simp] theorem State.setBufLen_hdr (n : Nat) : (s.setBufLen n).hdr = s.hdr := rfl
@[simp] theorem State.setBufLen_pay (n : Nat) : (s.setBufLen n).pay = s.pay := rfl
@[simp] theorem State.setBufLen_fault (n : Nat) : (s.setBufLen n).fault = s.fault := rfl
@[simp] theorem State.setBufLen_refused (n : Nat) : (s.setBufLen n).refused = s.refused := rfl
@[simp] theorem State.setBufLen_rdata (n : Nat) : (s.setBufLen n).rdata = s.rdata := rfl
@[simp] theorem State.setBufLen_inputs (n : Nat) : (s.setBufLen n).inputs = s.inputs := rfl

@[simp] theorem State.setTagArg_cfg (b : Byte) : (s.setTagArg b).cfg = s.cfg := rfl
@[simp] theorem State.setTagArg_bufLen (b : Byte) : (s.setTagArg b).bufLen = s.bufLen := rfl
@[simp] theorem State.setTagArg_inBuf (b : Byte) : (s.setTagArg b).inBuf = s.inBuf := rfl
@[simp] theorem State.setTagArg_tagArg (b : Byte) : (s.setTagArg b).tagArg = b := rfl
@[simp] theorem State.setTagArg_result (b : Byte) : (s.setTagArg b).result = s.result := rfl
@[simp] theorem State.setTagArg_lastOp (b : Byte) : (s.setTagArg b).lastOp = s.lastOp := rfl
@[simp] theorem State.setTagArg_hdr (b : Byte) : (s.setTagArg b).hdr = s.hdr := rfl
@[simp] theorem State.setTagArg_pay (b : Byte) : (s.setTagArg b).pay = s.pay := rfl
@[simp] theorem State.setTagArg_fault (b : Byte) : (s.setTagArg b).fault = s.fault := rfl
@[simp] theorem State.setTagArg_refused (b : Byte) : (s.setTagArg b).refused = s.refused := rfl
@[simp] theorem State.setTagArg_rdata (b : Byte) : (s.setTagArg b).rdata = s.rdata := rfl
@[simp] theorem State.setTagArg_inputs (b : Byte) : (s.setTagArg b).inputs = s.inputs := rfl

@[simp] theorem State.writeIn_cfg (i : Nat) (v : Byte) : (s.writeIn i v).cfg = s.cfg := rfl
@[simp] theorem State.writeIn_bufLen (i : Nat) (v : Byte) : (s.writeIn i v).bufLen = s.bufLen := rfl
@[simp] theorem State.writeIn_inBuf (i : Nat) (v : Byte) : (s.writeIn i v).inBuf = s.inBuf.write i v := rfl
@[simp] theorem State.writeIn_tagArg (i : Nat) (v : Byte) : (s.writeIn i v).tagArg = s.tagArg := rfl
@[simp] theorem State.writeIn_result (i : Nat) (v : Byte) : (s.writeIn i v).result = s.result := rfl
@[simp] theorem State.writeIn_lastOp (i : Nat) (v : Byte) : (s.writeIn i v).lastOp = s.lastOp := rfl
@[simp] theorem State.writeIn_hdr (i : Nat) (v : Byte) : (s.writeIn i v).hdr = s.hdr := rfl
@[simp] theorem State.writeIn_pay (i : Nat) (v : Byte) : (s.writeIn i v).pay = s.pay := rfl
@[simp] theorem State.writeIn_fault (i : Nat) (v : Byte) : (s.writeIn i v).fault = s.fault := rfl
@[simp] theorem State.writeIn_refused (i : Nat) (v : Byte) : (s.writeIn i v).refused = s.refused := rfl
@[simp] theorem State.writeIn_rdata (i : Nat) (v : Byte) : (s.writeIn i v).rdata = s.rdata := rfl
@[simp] theorem State.writeIn_inputs (i : Nat) (v : Byte) : (s.writeIn i v).inputs = s.inputs := rfl

@[simp] theorem State.returns_cfg (v : Word) : (s.returns v).cfg = s.cfg := rfl
@[simp] theorem State.returns_bufLen (v : Word) : (s.returns v).bufLen = s.bufLen := rfl
@[simp] theorem State.returns_inBuf (v : Word) : (s.returns v).inBuf = s.inBuf := rfl
@[simp] theorem State.returns_tagArg (v : Word) : (s.returns v).tagArg = s.tagArg := rfl
@[simp] theorem State.returns_result (v : Word) : (s.returns v).result = s.result := rfl
@[simp] theorem State.returns_lastOp (v : Word) : (s.returns v).lastOp = s.lastOp := rfl
@[simp] theorem State.returns_hdr (v : Word) : (s.returns v).hdr = s.hdr := rfl
@[simp] theorem State.returns_pay (v : Word) : (s.returns v).pay = s.pay := rfl
@[simp] theorem State.returns_fault (v : Word) : (s.returns v).fault = s.fault := rfl
@[simp] theorem State.returns_refused (v : Word) : (s.returns v).refused = s.refused := rfl
@[simp] theorem State.returns_rdata (v : Word) : (s.returns v).rdata = some v := rfl
@[simp] theorem State.returns_inputs (v : Word) : (s.returns v).inputs = s.inputs := rfl

@[simp] theorem State.clearRead_cfg : (s.clearRead).cfg = s.cfg := rfl
@[simp] theorem State.clearRead_bufLen : (s.clearRead).bufLen = s.bufLen := rfl
@[simp] theorem State.clearRead_inBuf : (s.clearRead).inBuf = s.inBuf := rfl
@[simp] theorem State.clearRead_tagArg : (s.clearRead).tagArg = s.tagArg := rfl
@[simp] theorem State.clearRead_result : (s.clearRead).result = s.result := rfl
@[simp] theorem State.clearRead_lastOp : (s.clearRead).lastOp = s.lastOp := rfl
@[simp] theorem State.clearRead_hdr : (s.clearRead).hdr = s.hdr := rfl
@[simp] theorem State.clearRead_pay : (s.clearRead).pay = s.pay := rfl
@[simp] theorem State.clearRead_fault : (s.clearRead).fault = s.fault := rfl
@[simp] theorem State.clearRead_refused : (s.clearRead).refused = s.refused := rfl
@[simp] theorem State.clearRead_rdata : (s.clearRead).rdata = none := rfl
@[simp] theorem State.clearRead_inputs : (s.clearRead).inputs = s.inputs := rfl

@[simp] theorem State.setInputs_cfg (l : List HostInput) : (s.setInputs l).cfg = s.cfg := rfl
@[simp] theorem State.setInputs_bufLen (l : List HostInput) : (s.setInputs l).bufLen = s.bufLen := rfl
@[simp] theorem State.setInputs_inBuf (l : List HostInput) : (s.setInputs l).inBuf = s.inBuf := rfl
@[simp] theorem State.setInputs_tagArg (l : List HostInput) : (s.setInputs l).tagArg = s.tagArg := rfl
@[simp] theorem State.setInputs_result (l : List HostInput) : (s.setInputs l).result = s.result := rfl
@[simp] theorem State.setInputs_lastOp (l : List HostInput) : (s.setInputs l).lastOp = s.lastOp := rfl
@[simp] theorem State.setInputs_hdr (l : List HostInput) : (s.setInputs l).hdr = s.hdr := rfl
@[simp] theorem State.setInputs_pay (l : List HostInput) : (s.setInputs l).pay = s.pay := rfl
@[simp] theorem State.setInputs_fault (l : List HostInput) : (s.setInputs l).fault = s.fault := rfl
@[simp] theorem State.setInputs_refused (l : List HostInput) : (s.setInputs l).refused = s.refused := rfl
@[simp] theorem State.setInputs_rdata (l : List HostInput) : (s.setInputs l).rdata = s.rdata := rfl
@[simp] theorem State.setInputs_inputs (l : List HostInput) : (s.setInputs l).inputs = l := rfl

@[simp] theorem State.finish_cfg (op : BitVec 4) (c : ResultCode) (h : Option Header) (p : Option (List Byte)) :
    (s.finish op c h p).cfg = s.cfg := rfl
@[simp] theorem State.finish_bufLen (op : BitVec 4) (c : ResultCode) (h : Option Header) (p : Option (List Byte)) :
    (s.finish op c h p).bufLen = s.bufLen := rfl
@[simp] theorem State.finish_inBuf (op : BitVec 4) (c : ResultCode) (h : Option Header) (p : Option (List Byte)) :
    (s.finish op c h p).inBuf = s.inBuf := rfl
@[simp] theorem State.finish_tagArg (op : BitVec 4) (c : ResultCode) (h : Option Header) (p : Option (List Byte)) :
    (s.finish op c h p).tagArg = s.tagArg := rfl
@[simp] theorem State.finish_result (op : BitVec 4) (c : ResultCode) (h : Option Header) (p : Option (List Byte)) :
    (s.finish op c h p).result = c := rfl
@[simp] theorem State.finish_lastOp (op : BitVec 4) (c : ResultCode) (h : Option Header) (p : Option (List Byte)) :
    (s.finish op c h p).lastOp = op := rfl
@[simp] theorem State.finish_hdr (op : BitVec 4) (c : ResultCode) (h : Option Header) (p : Option (List Byte)) :
    (s.finish op c h p).hdr = h := rfl
@[simp] theorem State.finish_pay (op : BitVec 4) (c : ResultCode) (h : Option Header) (p : Option (List Byte)) :
    (s.finish op c h p).pay = p := rfl
@[simp] theorem State.finish_fault (op : BitVec 4) (c : ResultCode) (h : Option Header) (p : Option (List Byte)) :
    (s.finish op c h p).fault = s.fault := rfl
@[simp] theorem State.finish_refused (op : BitVec 4) (c : ResultCode) (h : Option Header) (p : Option (List Byte)) :
    (s.finish op c h p).refused = s.refused := rfl
@[simp] theorem State.finish_rdata (op : BitVec 4) (c : ResultCode) (h : Option Header) (p : Option (List Byte)) :
    (s.finish op c h p).rdata = s.rdata := rfl
@[simp] theorem State.finish_inputs (op : BitVec 4) (c : ResultCode) (h : Option Header) (p : Option (List Byte)) :
    (s.finish op c h p).inputs = s.inputs := rfl

@[simp] theorem State.raise_cfg (f : ModelFault) : (s.raise f).cfg = s.cfg := rfl
@[simp] theorem State.raise_bufLen (f : ModelFault) : (s.raise f).bufLen = s.bufLen := rfl
@[simp] theorem State.raise_inBuf (f : ModelFault) : (s.raise f).inBuf = s.inBuf := rfl
@[simp] theorem State.raise_tagArg (f : ModelFault) : (s.raise f).tagArg = s.tagArg := rfl
@[simp] theorem State.raise_result (f : ModelFault) : (s.raise f).result = s.result := rfl
@[simp] theorem State.raise_lastOp (f : ModelFault) : (s.raise f).lastOp = s.lastOp := rfl
@[simp] theorem State.raise_hdr (f : ModelFault) : (s.raise f).hdr = s.hdr := rfl
@[simp] theorem State.raise_pay (f : ModelFault) : (s.raise f).pay = s.pay := rfl
@[simp] theorem State.raise_fault (f : ModelFault) : (s.raise f).fault = some f := rfl
@[simp] theorem State.raise_refused (f : ModelFault) : (s.raise f).refused = s.refused := rfl
@[simp] theorem State.raise_rdata (f : ModelFault) : (s.raise f).rdata = s.rdata := rfl
@[simp] theorem State.raise_inputs (f : ModelFault) : (s.raise f).inputs = s.inputs := rfl

@[simp] theorem State.refuse_cfg (r : RefusalReason) : (s.refuse r).cfg = s.cfg := rfl
@[simp] theorem State.refuse_bufLen (r : RefusalReason) : (s.refuse r).bufLen = s.bufLen := rfl
@[simp] theorem State.refuse_inBuf (r : RefusalReason) : (s.refuse r).inBuf = s.inBuf := rfl
@[simp] theorem State.refuse_tagArg (r : RefusalReason) : (s.refuse r).tagArg = s.tagArg := rfl
@[simp] theorem State.refuse_result (r : RefusalReason) : (s.refuse r).result = s.result := rfl
@[simp] theorem State.refuse_lastOp (r : RefusalReason) : (s.refuse r).lastOp = s.lastOp := rfl
@[simp] theorem State.refuse_hdr (r : RefusalReason) : (s.refuse r).hdr = s.hdr := rfl
@[simp] theorem State.refuse_pay (r : RefusalReason) : (s.refuse r).pay = s.pay := rfl
@[simp] theorem State.refuse_fault (r : RefusalReason) : (s.refuse r).fault = s.fault := rfl
@[simp] theorem State.refuse_refused (r : RefusalReason) : (s.refuse r).refused = some r := rfl
@[simp] theorem State.refuse_rdata (r : RefusalReason) : (s.refuse r).rdata = s.rdata := rfl
@[simp] theorem State.refuse_inputs (r : RefusalReason) : (s.refuse r).inputs = s.inputs := rfl

@[simp] theorem State.afterReset_cfg : (s.afterReset).cfg = s.cfg := rfl
@[simp] theorem State.afterReset_bufLen : (s.afterReset).bufLen = 0 := rfl
@[simp] theorem State.afterReset_inBuf : (s.afterReset).inBuf = [] := rfl
@[simp] theorem State.afterReset_tagArg : (s.afterReset).tagArg = 0 := rfl
@[simp] theorem State.afterReset_result : (s.afterReset).result = .none := rfl
@[simp] theorem State.afterReset_lastOp : (s.afterReset).lastOp = 0 := rfl
@[simp] theorem State.afterReset_hdr : (s.afterReset).hdr = none := rfl
@[simp] theorem State.afterReset_pay : (s.afterReset).pay = none := rfl
@[simp] theorem State.afterReset_fault : (s.afterReset).fault = s.fault := rfl
@[simp] theorem State.afterReset_refused : (s.afterReset).refused = s.refused := rfl
@[simp] theorem State.afterReset_rdata : (s.afterReset).rdata = none := rfl
@[simp] theorem State.afterReset_inputs : (s.afterReset).inputs = s.inputs := rfl

/-- The parameters of a reset state are those it was made with. -/
@[simp] theorem State.resetOf_cfg (c : Config) : (State.resetOf c).cfg = c := rfl

/-- Clearing `rdata` twice is clearing it once. -/
@[simp] theorem State.clearRead_clearRead : s.clearRead.clearRead = s.clearRead := rfl

end Sys2Proof.Machine
end

