-- ==== Sys2Proof/Laws/Ops.lean ====
section
/-! SUPPORT. What each shared operation can do, said once: a guarded step, the errors, the commit of a command. -/

namespace Sys2Proof.Machine

variable {s t : State}

/-- A guarded step is taken in a live state. -/
@[simp] theorem guarded_of_live (h : s.live) (t : State) : guarded s t = .next t := by
  simp [guarded, h.1, h.2]

/-- A guarded step that is taken was taken from a live state, and goes where it was to go. -/
theorem guarded_next_iff {u : State} : guarded s t = .next u ↔ s.live ∧ u = t := by
  unfold guarded State.live
  cases hf : s.fault <;> cases hr : s.refused <;> simp [eq_comm]

/-- A recorded model fault stops every step (R213). -/
theorem guarded_of_fault {f : ModelFault} (h : s.fault = some f) : guarded s t = .fault (.quiescent f) := by
  simp [guarded, h]

/-- A recorded refusal stops every step (R213). -/
theorem guarded_of_refused {r : RefusalReason} (hf : s.fault = none) (h : s.refused = some r) :
    guarded s t = .refused (.quiescent r) := by
  simp [guarded, hf, h]

/-- One step of a live FDB. -/
@[simp] theorem hostStep_of_live (h : s.live) (f : State → State) : hostStep s f = .next (f s.clearRead) :=
  guarded_of_live h _

/-- Everything a step can do: it is taken from a live state and does its function. -/
theorem hostStep_next_iff {f : State → State} : hostStep s f = .next t ↔ s.live ∧ t = f s.clearRead :=
  guarded_next_iff

/-- The state left by a read of an output that may be invalid. -/
theorem State.returnsValid_cases (a : Addr) (o : Option Word) :
    (∃ v, o = some v ∧ s.returnsValid a o = s.returns v) ∨
      (o = none ∧ s.returnsValid a o = s.raise (.invalidResult a)) := by
  cases o with
  | some v => exact .inl ⟨v, rfl, rfl⟩
  | none => exact .inr ⟨rfl, rfl⟩

/-- The three ways a command ends (R11, R110, R134). -/
theorem State.commit_cases (op : BitVec 4) (r : Except Stop (Header × Option (List Byte))) :
    (∃ f, r = .error (.raised f) ∧ s.commit op r = s.raise f) ∨
      (∃ code, r = .error (.failed code) ∧ s.commit op r = s.finish op code none none) ∨
      (∃ h p, r = .ok (h, p) ∧ s.commit op r = s.finish op .ok (some h) p) := by
  match r with
  | .error (.raised f) => exact .inl ⟨f, rfl, rfl⟩
  | .error (.failed code) => exact .inr (.inl ⟨code, rfl, rfl⟩)
  | .ok (h, p) => exact .inr (.inr ⟨h, p, rfl, rfl⟩)

end Sys2Proof.Machine
end

