-- ==== Sys2Proof/Laws/Operands.lean ====
section
/-! SUPPORT. What the decodes of `IN_BUF` can answer, said once. -/

namespace Sys2Proof.Machine

variable {c : Config} {n : Nat} {m : Memory}

/-- `InRead` of a written byte. -/
theorem inRead_ok_iff {i : Nat} {v : Byte} : inRead m i = .ok v ↔ m.read i = some v := by
  unfold inRead
  cases m.read i <;> simp

/-- `InRead` of a written byte, to rewrite with. -/
@[simp] theorem inRead_of_read {i : Nat} {v : Byte} (h : m.read i = some v) : inRead m i = .ok v :=
  inRead_ok_iff.mpr h

/-- `InRead` of a byte never written (R210). -/
@[simp] theorem inRead_of_unwritten {i : Nat} (h : m.read i = none) :
    inRead m i = .error (.raised (.unwrittenInput i)) := by
  simp [inRead, h]

/-- A bind on a value. -/
@[simp] theorem except_ok_bind {ε α β : Type} (a : α) (f : α → Except ε β) : (Except.ok a >>= f) = f a := rfl

/-- A bind on an error. -/
@[simp] theorem except_error_bind {ε α β : Type} (e : ε) (f : α → Except ε β) :
    (Except.error e >>= f) = .error e := rfl

/-- The value inside a successful bind. -/
theorem except_bind_ok_iff {ε α β : Type} {x : Except ε α} {f : α → Except ε β} {b : β} :
    x >>= f = .ok b ↔ ∃ a, x = .ok a ∧ f a = .ok b := by
  cases x <;> simp

/-- A bind fails where its first part fails or its second does. -/
theorem except_bind_error_iff {ε α β : Type} {x : Except ε α} {f : α → Except ε β} {e : ε} :
    x >>= f = .error e ↔ x = .error e ∨ ∃ a, x = .ok a ∧ f a = .error e := by
  cases x <;> simp

/-- `InRead` fails only by raising `F_UNWRITTEN_INPUT` of the byte it reads. -/
theorem inRead_error_iff {i : Nat} {e : Stop} :
    inRead m i = .error e ↔ m.read i = none ∧ e = .raised (.unwrittenInput i) := by
  unfold inRead
  cases m.read i <;> simp [eq_comm]

/-- A run of reads succeeds exactly when every byte of it is written, and gives those bytes in order. -/
theorem readRun_ok_iff {i count : Nat} {p : List Byte} :
    readRun m i count = .ok p ↔ p.length = count ∧ ∀ k v, p[k]? = some v → m.read (i + k) = some v := by
  induction count generalizing i p with
  | zero =>
    constructor
    · rintro ⟨⟩
      simp
    · rintro ⟨h, -⟩
      rw [List.length_eq_zero_iff.mp h]
      rfl
  | succ count ih =>
    simp only [readRun, except_bind_ok_iff, inRead_ok_iff]
    constructor
    · rintro ⟨b, hb, rest, hrest, ⟨⟩⟩
      obtain ⟨hl, hr⟩ := ih.mp hrest
      refine ⟨by simp [hl], fun k v hk => ?_⟩
      cases k with
      | zero => simpa [hb] using hk
      | succ k => simpa [Nat.add_assoc, Nat.add_comm 1 k] using hr k v (by simpa using hk)
    · rintro ⟨hl, hr⟩
      obtain ⟨b, rest, rfl⟩ := List.exists_cons_of_length_eq_add_one hl
      refine ⟨b, by simpa using hr 0 b rfl, rest, ih.mpr ⟨by simpa using hl, fun k v hk => ?_⟩, rfl⟩
      simpa [Nat.add_assoc, Nat.add_comm 1 k] using hr (k + 1) v (by simpa using hk)

/-- A run of reads fails only by raising `F_UNWRITTEN_INPUT` of its first byte never written. -/
theorem readRun_error {i count : Nat} {e : Stop} (h : readRun m i count = .error e) :
    ∃ k, k < count ∧ (∀ j, j < k → m.read (i + j) ≠ none) ∧ m.read (i + k) = none ∧
      e = .raised (.unwrittenInput (i + k)) := by
  induction count generalizing i with
  | zero => cases h
  | succ count ih =>
    simp only [readRun, except_bind_error_iff, inRead_error_iff, inRead_ok_iff] at h
    rcases h with ⟨h, rfl⟩ | ⟨b, hb, h | ⟨rest, -, h⟩⟩
    · exact ⟨0, by omega, by simp, h, rfl⟩
    · obtain ⟨k, hk, hw, hn, rfl⟩ := ih h
      refine ⟨k + 1, by omega, fun j hj => ?_, by rwa [← Nat.add_assoc, Nat.add_right_comm], by
        rw [← Nat.add_assoc, Nat.add_right_comm]⟩
      cases j with
      | zero => simp [hb]
      | succ j => simpa [Nat.add_assoc, Nat.add_comm 1 j] using hw j (by omega)
    · cases h

/-- `HeaderCore` succeeds exactly on a buffer that passes the checks of R102, R103 and R105, and its header holds
the bytes of R104 and R107. -/
theorem headerCore_ok_iff {h : Header} :
    headerCore c n m = .ok h ↔
      c.minBuf.bytes ≤ n ∧ h.sync0 = sync0 ∧ h.sync1 = sync1 ∧
      m.read 0 = some h.sync0 ∧ m.read 1 = some h.sync1 ∧ m.read 2 = some h.cls ∧ m.read 3 = some h.id ∧
      (∃ lo hi, m.read 4 = some lo ∧ m.read 5 = some hi ∧ h.len = u16le lo hi) ∧
      frameEnd h.len ≤ n ∧ m.read (6 + h.len.toNat) = some h.ckA ∧ m.read (7 + h.len.toNat) = some h.ckB := by
  unfold headerCore
  constructor
  · intro hh
    split at hh
    · cases hh
    · rename_i hn
      simp only [except_bind_ok_iff, inRead_ok_iff] at hh
      obtain ⟨s0, h0, s1, h1, hh⟩ := hh
      split at hh
      · cases hh
      · rename_i hs
        simp only [except_bind_ok_iff, inRead_ok_iff] at hh
        obtain ⟨cls, hc, d, hd, lo, hlo, hi, hhi, hh⟩ := hh
        split at hh
        · cases hh
        · rename_i hb
          simp only [except_bind_ok_iff, inRead_ok_iff] at hh
          obtain ⟨a, ha, b, hb', ⟨⟩⟩ := hh
          simp only [not_or, not_not] at hs
          exact ⟨by omega, hs.1, hs.2, h0, h1, hc, hd, ⟨lo, hi, hlo, hhi, rfl⟩, Nat.not_lt.mp hb, ha, hb'⟩
  · rintro ⟨hn, hs0, hs1, h0, h1, h2, h3, ⟨lo, hi, h4, h5, hl⟩, hb, ha, hb'⟩
    rw [if_neg (by omega), inRead_of_read h0, inRead_of_read h1]
    simp only [except_ok_bind]
    rw [if_neg (by simp [hs0, hs1]), inRead_of_read h2, inRead_of_read h3, inRead_of_read h4, inRead_of_read h5]
    simp only [except_ok_bind, ← hl]
    rw [if_neg (by omega), inRead_of_read ha, inRead_of_read hb']
    rfl

/-- `HeaderCore` fails exactly by the checks of R102, R103 and R105, in this order (R207). -/
theorem headerCore_failed_iff {code : ResultCode} :
    headerCore c n m = .error (.failed code) ↔
      (n < c.minBuf.bytes ∧ code = .headerTooSmall) ∨
      (c.minBuf.bytes ≤ n ∧ ∃ s0 s1, m.read 0 = some s0 ∧ m.read 1 = some s1 ∧
        ((s0 ≠ sync0 ∨ s1 ≠ sync1) ∧ code = .badSignature ∨
          s0 = sync0 ∧ s1 = sync1 ∧ ∃ cls d lo hi, m.read 2 = some cls ∧ m.read 3 = some d ∧
            m.read 4 = some lo ∧ m.read 5 = some hi ∧ n < frameEnd (u16le lo hi) ∧ code = .bufferTooShort)) := by
  unfold headerCore
  constructor
  · intro hh
    split at hh
    · rename_i hn
      cases hh
      exact .inl ⟨hn, rfl⟩
    · rename_i hn
      simp only [except_bind_error_iff, inRead_error_iff, inRead_ok_iff, reduceCtorEq, and_false, false_or] at hh
      obtain ⟨s0, h0, s1, h1, hh⟩ := hh
      refine .inr ⟨by omega, s0, s1, h0, h1, ?_⟩
      split at hh
      · rename_i hs
        cases hh
        exact .inl ⟨hs, rfl⟩
      · rename_i hs
        simp only [not_or, not_not] at hs
        simp only [except_bind_error_iff, inRead_error_iff, inRead_ok_iff, reduceCtorEq, and_false, false_or] at hh
        obtain ⟨cls, hc, d, hd, lo, hlo, hi, hhi, hh⟩ := hh
        split at hh
        · rename_i hb
          cases hh
          exact .inr ⟨hs.1, hs.2, cls, d, lo, hi, hc, hd, hlo, hhi, hb, rfl⟩
        · simp only [except_bind_error_iff, inRead_error_iff, inRead_ok_iff, reduceCtorEq, and_false, false_or] at hh
          obtain ⟨a, -, b, -, hh⟩ := hh
          cases hh
  · rintro (⟨hn, rfl⟩ | ⟨hn, s0, s1, h0, h1, ⟨hs, rfl⟩ | ⟨rfl, rfl, cls, d, lo, hi, h2, h3, h4, h5, hb, rfl⟩⟩)
    · rw [if_pos hn]
    · rw [if_neg (by omega), inRead_of_read h0, inRead_of_read h1]
      simp only [except_ok_bind]
      rw [if_pos hs]
    · rw [if_neg (by omega), inRead_of_read h0, inRead_of_read h1]
      simp only [except_ok_bind]
      rw [if_neg (by simp), inRead_of_read h2, inRead_of_read h3, inRead_of_read h4, inRead_of_read h5]
      simp only [except_ok_bind]
      rw [if_pos hb]

/-- `DECODE_MESSAGE` succeeds exactly when the header does, the end check passes, and the payload is written. -/
theorem messageCore_ok_iff {h : Header} {p : List Byte} :
    messageCore c n m = .ok (h, p) ↔
      headerCore c n m = .ok h ∧ ¬ (c.strictEnd = true ∧ n ≠ frameEnd h.len) ∧ payloadCore m h.len = .ok p := by
  unfold messageCore
  rw [except_bind_ok_iff]
  constructor
  · rintro ⟨h', hh, hx⟩
    split at hx
    · cases hx
    · rename_i hs
      obtain ⟨p', hp, hx⟩ := except_bind_ok_iff.mp hx
      cases hx
      exact ⟨hh, hs, hp⟩
  · rintro ⟨hh, hs, hp⟩
    exact ⟨h, hh, by rw [if_neg hs, hp]; rfl⟩

/-- `DECODE_MESSAGE` stops where the header does, at the end check, or at a payload read. -/
theorem messageCore_error_iff {e : Stop} :
    messageCore c n m = .error e ↔
      headerCore c n m = .error e ∨ ∃ h, headerCore c n m = .ok h ∧
        (c.strictEnd = true ∧ n ≠ frameEnd h.len ∧ e = .failed .lengthMismatch ∨
          ¬ (c.strictEnd = true ∧ n ≠ frameEnd h.len) ∧ payloadCore m h.len = .error e) := by
  unfold messageCore
  rw [except_bind_error_iff]
  refine or_congr_right (exists_congr fun h => and_congr_right fun _ => ?_)
  split
  · rename_i hs
    simp [hs, eq_comm]
  · rename_i hs
    simp only [except_bind_error_iff, hs, not_false_eq_true, true_and]
    constructor
    · rintro (h | ⟨p, -, h⟩)
      · exact .inr h
      · cases h
    · rintro (⟨h1, h2, -⟩ | h)
      · exact absurd ⟨h1, h2⟩ hs
      · exact .inl h

end Sys2Proof.Machine
end

