-- ==== Sys2Proof/Laws/PerInstr.lean ====
section
/-! SUPPORT. The per-instruction family `Mnemonic`: the name the model gives an operation is one of
spec/opcode_table.json, among the rows of its own format. -/

namespace Sys2Proof.Laws

/-- The mnemonics of the command rows. -/
def commandNames : List String := commandRows.map (·.mnemonic)

/-- The mnemonics of the bus rows. -/
def busNames : List String := busRows.map (·.mnemonic)

/-- The operation's mnemonic stands in the rows of the format it is encoded in. -/
def Mnemonic.Statement (i : Instr) : Prop :=
  match encode i with
  | .cmd _ => i.mnemonic ∈ commandNames
  | .bus _ => i.mnemonic ∈ busNames

theorem Mnemonic.decodeHeader : Mnemonic.Statement .decodeHeader :=
  show "DECODE_HEADER" ∈ commandNames from by decide

theorem Mnemonic.decodeMessage : Mnemonic.Statement .decodeMessage :=
  show "DECODE_MESSAGE" ∈ commandNames from by decide

theorem Mnemonic.cmdReserved (w : Word) : Mnemonic.Statement (.cmdReserved w) :=
  show "CMD_RESERVED" ∈ commandNames from by decide

theorem Mnemonic.w32Cmd (w : Word) : Mnemonic.Statement (.w32Cmd w) :=
  show "W32_CMD" ∈ busNames from by decide

theorem Mnemonic.w32Status (w : Word) : Mnemonic.Statement (.w32Status w) :=
  show "W32_STATUS" ∈ busNames from by decide

theorem Mnemonic.w32BufLen (w : Word) : Mnemonic.Statement (.w32BufLen w) :=
  show "W32_BUF_LEN" ∈ busNames from by decide

theorem Mnemonic.w32Hdr0 (w : Word) : Mnemonic.Statement (.w32Hdr0 w) :=
  show "W32_HDR0" ∈ busNames from by decide

theorem Mnemonic.w32Hdr1 (w : Word) : Mnemonic.Statement (.w32Hdr1 w) :=
  show "W32_HDR1" ∈ busNames from by decide

theorem Mnemonic.w32FrameLen (w : Word) : Mnemonic.Statement (.w32FrameLen w) :=
  show "W32_FRAME_LEN" ∈ busNames from by decide

theorem Mnemonic.w32HdrTag (w : Word) : Mnemonic.Statement (.w32HdrTag w) :=
  show "W32_HDR_TAG" ∈ busNames from by decide

theorem Mnemonic.w32PayLen (w : Word) : Mnemonic.Statement (.w32PayLen w) :=
  show "W32_PAY_LEN" ∈ busNames from by decide

theorem Mnemonic.w32TagArg (w : Word) : Mnemonic.Statement (.w32TagArg w) :=
  show "W32_TAG_ARG" ∈ busNames from by decide

theorem Mnemonic.w32Cfg (w : Word) : Mnemonic.Statement (.w32Cfg w) :=
  show "W32_CFG" ∈ busNames from by decide

theorem Mnemonic.w32Cap (w : Word) : Mnemonic.Statement (.w32Cap w) :=
  show "W32_CAP" ∈ busNames from by decide

theorem Mnemonic.r32Cmd : Mnemonic.Statement .r32Cmd :=
  show "R32_CMD" ∈ busNames from by decide

theorem Mnemonic.r32Status : Mnemonic.Statement .r32Status :=
  show "R32_STATUS" ∈ busNames from by decide

theorem Mnemonic.r32BufLen : Mnemonic.Statement .r32BufLen :=
  show "R32_BUF_LEN" ∈ busNames from by decide

theorem Mnemonic.r32Hdr0 : Mnemonic.Statement .r32Hdr0 :=
  show "R32_HDR0" ∈ busNames from by decide

theorem Mnemonic.r32Hdr1 : Mnemonic.Statement .r32Hdr1 :=
  show "R32_HDR1" ∈ busNames from by decide

theorem Mnemonic.r32FrameLen : Mnemonic.Statement .r32FrameLen :=
  show "R32_FRAME_LEN" ∈ busNames from by decide

theorem Mnemonic.r32HdrTag : Mnemonic.Statement .r32HdrTag :=
  show "R32_HDR_TAG" ∈ busNames from by decide

theorem Mnemonic.r32PayLen : Mnemonic.Statement .r32PayLen :=
  show "R32_PAY_LEN" ∈ busNames from by decide

theorem Mnemonic.r32TagArg : Mnemonic.Statement .r32TagArg :=
  show "R32_TAG_ARG" ∈ busNames from by decide

theorem Mnemonic.r32Cfg : Mnemonic.Statement .r32Cfg :=
  show "R32_CFG" ∈ busNames from by decide

theorem Mnemonic.r32Cap : Mnemonic.Statement .r32Cap :=
  show "R32_CAP" ∈ busNames from by decide

theorem Mnemonic.w8InBuf (i : BitVec 17) (w : Word) : Mnemonic.Statement (.w8InBuf i w) :=
  show "W8_IN_BUF" ∈ busNames from by decide

theorem Mnemonic.r8InBuf (i : BitVec 17) : Mnemonic.Statement (.r8InBuf i) :=
  show "R8_IN_BUF" ∈ busNames from by decide

theorem Mnemonic.r8PayBuf (i : BitVec 17) : Mnemonic.Statement (.r8PayBuf i) :=
  show "R8_PAY_BUF" ∈ busNames from by decide

theorem Mnemonic.w8PayBuf (i : BitVec 17) (w : Word) : Mnemonic.Statement (.w8PayBuf i w) :=
  show "W8_PAY_BUF" ∈ busNames from by decide

theorem Mnemonic.r8Rsv (i : BitVec 17) : Mnemonic.Statement (.r8Rsv i) :=
  show "R8_RSV" ∈ busNames from by decide

theorem Mnemonic.w8Rsv (i : BitVec 17) (w : Word) : Mnemonic.Statement (.w8Rsv i w) :=
  show "W8_RSV" ∈ busNames from by decide

theorem Mnemonic.r32Rsv (k : BitVec 15) : Mnemonic.Statement (.r32Rsv k) :=
  show "R32_RSV" ∈ busNames from by decide

theorem Mnemonic.w32Rsv (k : BitVec 15) (w : Word) : Mnemonic.Statement (.w32Rsv k w) :=
  show "W32_RSV" ∈ busNames from by decide

theorem Mnemonic.r32RsvHi (k : BitVec 15) : Mnemonic.Statement (.r32RsvHi k) :=
  show "R32_RSV_HI" ∈ busNames from by decide

theorem Mnemonic.w32RsvHi (k : BitVec 15) (w : Word) : Mnemonic.Statement (.w32RsvHi k w) :=
  show "W32_RSV_HI" ∈ busNames from by decide

theorem Mnemonic.badAccess (d : Dir) (z : Size) (a : Addr) (w : Word) : Mnemonic.Statement (.badAccess d z a w) :=
  show "BAD_ACCESS" ∈ busNames from by decide

end Sys2Proof.Laws
end

