-- ==== Sys2Proof/Tests/Slice0.lean ====
section
/-! SUPPORT. The model's own tests. Expected values are taken from the spec: the encodings of 30_encoding.md (R80, R82,
register offsets of R25, regions of R51) and the vectors of 95_test_vectors.md, named in each comment. The theorems
`test_witness_…` show, for each statement of the obligations that has hypotheses, concrete data meeting them. -/

namespace Sys2Proof.Tests

open Sys2Proof Sys2Proof.Machine

/-! ### Helpers -/

/-- The next state of a step, if there is one. -/
def after : Host.Outcome State Fault Refusal → Option State
  | .next t => some t
  | .fault _ => none
  | .refused _ => none

/-- A part of the state that an operation leaves. -/
def leaves {α : Type} (i : Instr) (s : State) (f : State → α) : Option α := (after (exec i s)).map f

/-- What a read returns. -/
def returned (i : Instr) (s : State) : Option (Option Word) := leaves i s State.rdata

/-- The fault an operation records. -/
def faults (i : Instr) (s : State) : Option (Option ModelFault) := leaves i s State.fault

/-- `STATUS` after an operation, as `lw STATUS` returns it. -/
def status (i : Instr) (s : State) : Option (Option Word) := (after (exec i s)).bind (returned .r32Status)

/-- Bytes at indexes `i`, `i + 1`, …. -/
def cellsAt : Nat → List Byte → Memory
  | _, [] => []
  | i, b :: bs => (i, b) :: cellsAt (i + 1) bs

/-- The reset state with the bytes `bs` written from index 0 and `BUF_LEN` at `n`. -/
def loaded (c : Config) (bs : List Byte) (n : Nat) : State :=
  { State.resetOf c with inBuf := cellsAt 0 bs, bufLen := n }

/-- The frame F-ACK. -/
def fAck : List Byte := [0xB5, 0x62, 0x05, 0x01, 0x02, 0x00, 0x06, 0x01, 0x0F, 0x38]

/-- The frame F-NAV. -/
def fNav : List Byte := [0xB5, 0x62, 0x01, 0x02, 0x01, 0x00, 0xAA, 0xAE, 0xBA]

/-- The frame F-CFG0. -/
def fCfg0 : List Byte := [0xB5, 0x62, 0x06, 0x01, 0x00, 0x00, 0x07, 0x1B]

/-- `MIN_BUF = 8`, the other parameters at their defaults. -/
def cfg8 : Config := { Config.default with minBuf := .eight }

/-- `STRICT_END = 0`, the other parameters at their defaults. -/
def cfgLoose : Config := { Config.default with strictEnd := false }

/-- F-ACK with `BUF_LEN = 10`. -/
def ack : State := loaded Config.default fAck 10

/-- The header of F-ACK, as program P1 leaves it. -/
def ackHeader : Header :=
  { sync0 := 0xB5, sync1 := 0x62, cls := 0x05, id := 0x01, len := 2, ckA := 0x0F, ckB := 0x38 }

/-- The state of program P1 after `decode.m`. -/
def ackMessage : State := { ack with result := .ok, lastOp := 2, hdr := some ackHeader, pay := some [0x06, 0x01] }

/-- A state that records a model fault. -/
def faulted : State := { State.reset with fault := some (.unwrittenRead 3) }

/-- Bytes of a frame in `IN_BUF`, checked byte by byte. -/
theorem startsWith_of_all {m : Memory} {bs : List Byte}
    (h : ∀ k : Fin bs.length, m.read k = some (bs.get k)) : m.startsWith bs := by
  intro k v hk
  obtain ⟨hlt, rfl⟩ := List.getElem?_eq_some_iff.mp hk
  exact h ⟨k, hlt⟩

/-! ### Well-formedness: each check refuses an ill-formed operation -/

/-- `0x1` and `0x2` are defined words (R80), so `CMD_RESERVED` cannot carry them. -/
theorem test_wf_refuses_defined_command :
    (Instr.cmdReserved 0x1).wf = false ∧ (Instr.cmdReserved 0x2).wf = false ∧ (Instr.cmdReserved 0x11).wf = true := by
  decide

/-- Word index 10 is `CAP` at 0x28, the last register (R25). -/
theorem test_wf_refuses_listed_register :
    (Instr.r32Rsv 10).wf = false ∧ (Instr.w32Rsv 10 0).wf = false ∧ (Instr.r32Rsv 11).wf = true := by
  decide

/-- An aligned 32-bit read of the register region obeys R55. -/
theorem test_wf_refuses_legal_access :
    (Instr.badAccess .read .word 0x00004 0).wf = false ∧ (Instr.badAccess .read .byte 0x20000 0).wf = false ∧
    (Instr.badAccess .read .word 0x60004 0).wf = false ∧ (Instr.badAccess .read .word 0x20000 0).wf = true := by
  decide

/-- `wdata` is ignored for reads (R82). -/
theorem test_wf_refuses_read_with_data : (Instr.badAccess .read .word 0x20000 5).wf = false := by decide

/-! ### Decoding words written out from the spec's encodings -/

/-- R80: the command words. -/
theorem test_decode_commands :
    decodeTableWord 32 0x00000001 = some .decodeHeader ∧ decodeTableWord 32 0x00000002 = some .decodeMessage ∧
    decodeTableWord 32 0x00000000 = some (.cmdReserved 0) ∧
    decodeTableWord 32 0x80000002 = some (.cmdReserved 0x80000002) := by
  decide

/-- R82, R25: `SEL = {1, 1, offset}`, with `wdata = 0x38` in bits 55:24. -/
theorem test_decode_register_writes :
    decodeTableWord 56 0x00000038180000 = some (.w32Cmd 0x38) ∧
    decodeTableWord 56 0x00000038180004 = some (.w32Status 0x38) ∧
    decodeTableWord 56 0x00000038180008 = some (.w32BufLen 0x38) ∧
    decodeTableWord 56 0x0000003818000C = some (.w32Hdr0 0x38) ∧
    decodeTableWord 56 0x00000038180010 = some (.w32Hdr1 0x38) ∧
    decodeTableWord 56 0x00000038180014 = some (.w32FrameLen 0x38) ∧
    decodeTableWord 56 0x00000038180018 = some (.w32HdrTag 0x38) ∧
    decodeTableWord 56 0x0000003818001C = some (.w32PayLen 0x38) ∧
    decodeTableWord 56 0x00000038180020 = some (.w32TagArg 0x38) ∧
    decodeTableWord 56 0x00000038180024 = some (.w32Cfg 0x38) ∧
    decodeTableWord 56 0xF0000038180028 = some (.w32Cap 0xF0000038) := by
  decide

/-- R82, R25: `SEL = {0, 1, offset}`. -/
theorem test_decode_register_reads :
    decodeTableWord 24 0x080000 = some .r32Cmd ∧ decodeTableWord 24 0x080004 = some .r32Status ∧
    decodeTableWord 24 0x080008 = some .r32BufLen ∧ decodeTableWord 24 0x08000C = some .r32Hdr0 ∧
    decodeTableWord 24 0x080010 = some .r32Hdr1 ∧ decodeTableWord 24 0x080014 = some .r32FrameLen ∧
    decodeTableWord 24 0x080018 = some .r32HdrTag ∧ decodeTableWord 24 0x08001C = some .r32PayLen ∧
    decodeTableWord 24 0x080020 = some .r32TagArg ∧ decodeTableWord 24 0x080024 = some .r32Cfg ∧
    decodeTableWord 24 0x080028 = some .r32Cap := by
  decide

/-- R82, R51: 8-bit accesses to the buffer windows; the first word is written bit by bit, as
`wr = 1`, `size = 0`, `addr = 010_0000_0000_0000_1001`. -/
theorem test_decode_buffers :
    decodeTableWord 24 0b1_0_0100000000000001001 = some (.w8InBuf 9 0) ∧
    decodeTableWord 56 0x00000038120009 = some (.w8InBuf 9 0x38) ∧
    decodeTableWord 24 0x03FFFF = some (.r8InBuf 0x1FFFF) ∧
    decodeTableWord 24 0x040001 = some (.r8PayBuf 1) ∧
    decodeTableWord 56 0x00000011140000 = some (.w8PayBuf 0 0x11) := by
  decide

/-- R53, R55, R83: reserved addresses and illegal accesses. -/
theorem test_decode_reserved :
    decodeTableWord 24 0x060001 = some (.r8Rsv 1) ∧ decodeTableWord 24 0x160001 = some (.w8Rsv 1 0) ∧
    decodeTableWord 24 0x08002C = some (.r32Rsv 11) ∧ decodeTableWord 56 0x0000000518002C = some (.w32Rsv 11 5) ∧
    decodeTableWord 24 0x0E0004 = some (.r32RsvHi 1) ∧ decodeTableWord 24 0x1E0004 = some (.w32RsvHi 1 0) ∧
    decodeTableWord 24 0x000004 = some (.badAccess .read .byte 0x00004 0) ∧
    decodeTableWord 24 0x0A0000 = some (.badAccess .read .word 0x20000 0) ∧
    decodeTableWord 24 0x080006 = some (.badAccess .read .word 0x00006 0) ∧
    decodeTableWord 24 0x0E0002 = some (.badAccess .read .word 0x60002 0) := by
  decide

/-- A table word of no format, or with a bit that its format does not have, is rejected by name. -/
theorem test_decode_rejects_by_name :
    decodeTableWord 16 1 = none ∧ decodeTableWord 24 0x200000 = none ∧ decodeTableWord 32 0x100000000 = none := by
  decide

/-! ### Operations, against the vectors -/

/-- H8: F-ACK gives 0x109 and its header. -/
theorem test_decode_header : status .decodeHeader ack = some (some 0x109) ∧
    leaves .decodeHeader ack State.hdr = some (some ackHeader) := by decide

/-- H11, H15: `L = 65535` does not wrap; byte 8 was never written. -/
theorem test_decode_header_fails :
    status .decodeHeader (loaded Config.default [0xB5, 0x62, 0x01, 0x02, 0xFF, 0xFF, 0, 0, 0] 9) = some (some 0x104) ∧
    faults .decodeHeader (loaded Config.default (fAck.take 6) 10) = some (some (.unwrittenInput 8)) := by decide

/-- M1: F-ACK gives 0x219 and payload `06 01`. -/
theorem test_decode_message : status .decodeMessage ack = some (some 0x219) ∧
    leaves .decodeMessage ack State.pay = some (some [0x06, 0x01]) := by decide

/-- M2, M3: a trailing byte, under either `STRICT_END`. -/
theorem test_decode_message_trailing :
    status .decodeMessage (loaded Config.default (fAck ++ [0x55]) 11) = some (some 0x205) ∧
    leaves .decodeMessage (loaded cfgLoose (fAck ++ [0x55]) 11) State.pay = some (some [0x06, 0x01]) := by decide

/-- K4: `OP = 1` with an upper bit set. -/
theorem test_cmd_reserved : status (.cmdReserved 0x11) State.reset = some (some 0x106) := by decide

/-- K5, M5a: the command that the word selects. -/
theorem test_w32_cmd : status (.w32Cmd 0x80000002) State.reset = some (some 0x206) ∧
    status (.w32Cmd 2) (loaded cfg8 fCfg0 8) = some (some 0x219) := by decide

/-- A7, A17: the other writes of read-only registers change nothing. -/
theorem test_w32_read_only : ∀ i ∈ [Instr.w32Status 0xFFFFFFFF, .w32Hdr0 0, .w32Hdr1 0, .w32FrameLen 0, .w32HdrTag 0,
    .w32PayLen 0, .w32Cfg 0, .w32Cap 0], leaves i ackMessage id = some ackMessage := by decide

/-- A6, A5: 65543 is stored, 65544 refused. -/
theorem test_w32_buf_len : leaves (.w32BufLen 65543) State.reset State.bufLen = some 65543 ∧
    leaves (.w32BufLen 65544) State.reset State.refused = some (some .lenOverCap) := by decide

/-- T: 0x105 stores 0x05. -/
theorem test_w32_tag_arg : leaves (.w32TagArg 0x105) State.reset State.tagArg = some 0x05 := by decide

/-- K7. -/
theorem test_r32_cmd : returned .r32Cmd ackMessage = some (some 0) := by decide

/-- P1: `STATUS`, `BUF_LEN`, `HDR0`, `HDR1`, `FRAME_LEN`, `HDR_TAG` and `PAY_LEN` after `decode.m`. -/
theorem test_r32_after_message :
    returned .r32Status ackMessage = some (some 0x219) ∧ returned .r32BufLen ackMessage = some (some 10) ∧
    returned .r32Hdr0 ackMessage = some (some 0x010562B5) ∧ returned .r32Hdr1 ackMessage = some (some 0x380F0002) ∧
    returned .r32FrameLen ackMessage = some (some 0xA) ∧ returned .r32HdrTag ackMessage = some (some 4) ∧
    returned .r32PayLen ackMessage = some (some 2) := by decide

/-- A2, K6: gated registers of a state with no valid output, by R41 and the offsets of R25. -/
theorem test_r32_invalid :
    faults .r32Hdr0 State.reset = some (some (.invalidResult 0x0C)) ∧
    faults .r32Hdr1 State.reset = some (some (.invalidResult 0x10)) ∧
    faults .r32FrameLen State.reset = some (some (.invalidResult 0x14)) ∧
    faults .r32HdrTag State.reset = some (some (.invalidResult 0x18)) ∧
    faults .r32PayLen State.reset = some (some (.invalidResult 0x1C)) := by decide

/-- T: the class-tag lookup, and after reset. -/
theorem test_r32_tag_arg : returned .r32TagArg { State.reset with tagArg := 0x0A } = some (some 0x60A) ∧
    returned .r32TagArg { State.reset with tagArg := 0x0C } = some (some 0x00C) ∧
    returned .r32TagArg State.reset = some (some 0) := by decide

/-- A1, A16: `CFG` and `CAP`. -/
theorem test_r32_parameters : returned .r32Cfg State.reset = some (some 0x19) ∧
    returned .r32Cap State.reset = some (some 0x10007) ∧
    returned .r32Cfg (State.resetOf { cfg8 with strictEnd := false }) = some (some 0x08) := by decide

/-- A9, and R52 at index `IN_CAP`. -/
theorem test_w8_in_buf : leaves (.w8InBuf 3 0x17E) State.reset State.inBuf = some [(3, 0x7E)] ∧
    leaves (.w8InBuf 65543 0x7E) State.reset State.inBuf = some [] := by decide

/-- A8, A9, A15. -/
theorem test_r8_in_buf : faults (.r8InBuf 3) State.reset = some (some (.unwrittenRead 3)) ∧
    returned (.r8InBuf 3) { State.reset with inBuf := [(3, 0x7E)] } = some (some 0x7E) ∧
    returned (.r8InBuf 0x10007) State.reset = some (some 0) := by decide

/-- M1, A14. -/
theorem test_r8_pay_buf : returned (.r8PayBuf 1) ackMessage = some (some 0x01) ∧
    faults (.r8PayBuf 2) ackMessage = some (some (.invalidResult 0x40002)) ∧
    returned (.r8PayBuf 0xFFFF) ackMessage = some (some 0) := by decide

/-- A11. -/
theorem test_w8_pay_buf : leaves (.w8PayBuf 0 0x11) ackMessage State.pay = some (some [0x06, 0x01]) := by decide

/-- A4, A13. -/
theorem test_reserved_reads : returned (.r8Rsv 1) State.reset = some (some 0) ∧
    returned (.r32Rsv 11) State.reset = some (some 0) ∧ returned (.r32RsvHi 1) State.reset = some (some 0) := by decide

/-- A4. -/
theorem test_reserved_writes : leaves (.w8Rsv 1 5) ackMessage id = some ackMessage ∧
    leaves (.w32Rsv 11 5) ackMessage id = some ackMessage ∧ leaves (.w32RsvHi 1 5) ackMessage id = some ackMessage := by
  decide

/-- A3. -/
theorem test_bad_access : leaves (.badAccess .read .byte 0x00004 0) State.reset id =
    some { State.reset with refused := some .badAccess } := by decide

/-- R213: after A8 no step is possible, not even reset. -/
theorem test_quiescent : after (step (faulted.setInputs [.rst])) = none ∧ after (exec .r32Status faulted) = none ∧
    after (step faulted) = none := by decide

/-- A1: `lw STATUS` presented as a table word is the very next step. -/
theorem test_fetch_word : after (step (State.reset.withFetchWord 24 0x080004)) =
    some { State.reset with rdata := some 0 } := by decide

/-- R230: the reset step clears what P1 left. -/
theorem test_reset_step : after (step (ackMessage.setInputs [.rst])) = some State.reset := by decide

/-- The host of program P2 at its `copy` line, with the start of its table. -/
def copyHost : HostAgent :=
  { program := [.sb (.op .add (.lit 0x20000) (.var 2)) (.index (.op .add (.var 1) (.var 2)))]
    table := [0x13, 0xB5]
    line := 0
    vars := [(1, 0), (2, 0)] }

/-- P2: the first byte that the program copies is `S[0] = 0x13`; R85: `tag` keeps bits 11:8, `result` bits 2:0. -/
theorem test_host_program :
    copyHost.next State.reset = .running copyHost.advance { State.reset with inBuf := [(0, 0x13)] } ∧
    tagField 0x60A = 6 ∧ resultField 0x219 = 1 := by decide

/-! ### Witnesses: data meeting the hypotheses of each statement together -/

/-- An operation as the host's next input. -/
def presenting (s : State) (i : Instr) : State := s.setInputs [.op (encode i)]

/-- DecodeOfEncodeIsIdentity, at the two ends of an index range and on a refused access. -/
theorem test_witness_decode_of_encode : (Instr.w8InBuf 0 0xFF).wf = true ∧ (Instr.w8InBuf 0x1FFFF 0xFF).wf = true ∧
    (Instr.badAccess .write .byte 0x1FFFF 7).wf = true := by decide

/-- OpcodeTableAgreesWithDecoder: a read, whatever data it carries. -/
theorem test_witness_opcode_table : (lw 0x04).dir = .read ∧ ({ lw 0x04 with wdata := 5 } : BusOp).dir = .read := by
  decide

/-- StepRunsTheDecodedOperation. -/
theorem test_witness_step_runs :
    (presenting ack .decodeMessage).inputs = .op (.cmd 2) :: [] ∧
    decodeTableWord 24 0x080004 = some .r32Status := ⟨rfl, by decide⟩

/-- StepTakesOneInputOrWaits: a step that is taken, and a state that waits. -/
theorem test_witness_step_takes :
    (∃ t, step (presenting ack .decodeMessage) = .next t) ∧ ack.live ∧ ack.inputs = [] :=
  ⟨⟨_, rfl⟩, ⟨rfl, rfl⟩, rfl⟩

/-- The state of program P1 after `decode.m`, with a byte to write, meets the invariant. -/
theorem test_ack_message_inv : (presenting ackMessage (.w8InBuf 6 0xFF)).Inv where
  params := by decide
  bufLen_le := by decide
  inBuf_wf := by decide
  inBuf_cap := by decide
  hdr_iff := by decide
  pay_iff := by decide
  sync := by rintro _ ⟨⟩; decide
  pay_len := by rintro _ _ ⟨⟩ ⟨⟩; decide
  result_none := by decide
  result_ok := by decide
  result_mismatch := by decide
  one_mark := by decide

/-- StepKeepsInvariant: the state of P1, with a byte to write. -/
theorem test_witness_step_keeps_invariant :
    (∃ s t : State, s.Inv ∧ step s = .next t ∧ t.inBuf ≠ s.inBuf) :=
  ⟨presenting ackMessage (.w8InBuf 6 0xFF), _, test_ack_message_inv, rfl, by decide⟩

/-- ResetStateMeetsInvariant, at both ends of the domain of `IN_CAP`. -/
theorem test_witness_reset_invariant :
    ({ cfg8 with inCap := 8 } : Config).wf ∧ ({ Config.default with inCap := 131072 } : Config).wf := by decide

/-- ResetStepSetsResetValues: a live state and one that is not. -/
theorem test_witness_reset_step :
    (ackMessage.setInputs [.rst]).live ∧ ¬ (faulted.setInputs [.rst]).live ∧
    (faulted.setInputs [.rst]).inputs = .rst :: [] := by decide

/-- SmallBufferIsHeaderTooSmall, at `n = MIN_BUF - 1` for either `MIN_BUF`. -/
theorem test_witness_small_buffer :
    (loaded Config.default fCfg0 8).live ∧ (loaded Config.default fCfg0 8).bufLen < Config.default.minBuf.bytes ∧
    (loaded cfg8 fCfg0 7).live ∧ (loaded cfg8 fCfg0 7).bufLen < cfg8.minBuf.bytes := by decide

/-- WrongSignatureIsBadSignature, on the bytes of vector H6. -/
theorem test_witness_wrong_signature :
    let s := loaded Config.default [0xB5, 0x00] 9
    s.live ∧ s.cfg.minBuf.bytes ≤ s.bufLen ∧ s.inBuf.read 0 = some 0xB5 ∧ s.inBuf.read 1 = some 0x00 ∧
    ¬ ((0xB5 : Byte) = 0xB5 ∧ (0x00 : Byte) = 0x62) := by decide

/-- TruncatedFrameIsBufferTooShort, at `n = 8 + L - 1` (H10). -/
theorem test_witness_truncated :
    let s := loaded Config.default fAck 9
    s.live ∧ s.cfg.minBuf.bytes ≤ s.bufLen ∧ s.inBuf.startsWith [0xB5, 0x62, 0x05, 0x01, 0x02, 0x00] ∧
    s.bufLen < 8 + ((0x02 : Byte).toNat + 256 * (0x00 : Byte).toNat) :=
  ⟨by decide, by decide, startsWith_of_all (by decide), by decide⟩

/-- DecodeHeaderPublishesHeader, at `n = 8 + L`, with the payload bytes not written (as vector M9). -/
theorem test_witness_header :
    let s : State := { ack with inBuf := cellsAt 0 (fAck.take 6) ++ cellsAt 8 [0x0F, 0x38] }
    s.live ∧ s.cfg.minBuf.bytes ≤ s.bufLen ∧ s.inBuf.startsWith [0xB5, 0x62, 0x05, 0x01, 0x02, 0x00] ∧
    8 + ((0x02 : Byte).toNat + 256 * (0x00 : Byte).toNat) ≤ s.bufLen ∧
    s.inBuf.read (6 + ((0x02 : Byte).toNat + 256 * (0x00 : Byte).toNat)) = some 0x0F ∧
    s.inBuf.read (7 + ((0x02 : Byte).toNat + 256 * (0x00 : Byte).toNat)) = some 0x38 :=
  ⟨by decide, by decide, startsWith_of_all (by decide), by decide, by decide, by decide⟩

/-- DecodeMessagePublishesPayload: F-ACK under `STRICT_END = 1`. -/
theorem test_witness_message :
    ack.live ∧ ack.cfg.minBuf.bytes ≤ ack.bufLen ∧
    ack.inBuf.startsWith ([0xB5, 0x62, 0x05, 0x01, 0x02, 0x00] ++ [0x06, 0x01] ++ [0x0F, 0x38]) ∧
    ([0x06, 0x01] : List Byte).length = (0x02 : Byte).toNat + 256 * (0x00 : Byte).toNat ∧
    8 + ([0x06, 0x01] : List Byte).length ≤ ack.bufLen ∧
    (ack.cfg.strictEnd = true → ack.bufLen = 8 + ([0x06, 0x01] : List Byte).length) :=
  ⟨by decide, by decide, startsWith_of_all (by decide), by decide, by decide, by decide⟩

/-- DecodeMessagePublishesPayload: a trailing byte under `STRICT_END = 0` (M3). -/
theorem test_witness_message_loose :
    let s := loaded cfgLoose (fAck ++ [0x55]) 11
    s.live ∧ s.cfg.minBuf.bytes ≤ s.bufLen ∧
    s.inBuf.startsWith ([0xB5, 0x62, 0x05, 0x01, 0x02, 0x00] ++ [0x06, 0x01] ++ [0x0F, 0x38]) ∧
    8 + ([0x06, 0x01] : List Byte).length ≤ s.bufLen ∧ s.cfg.strictEnd = false :=
  ⟨by decide, by decide, startsWith_of_all (by decide), by decide, by decide⟩

/-- TrailingBytesAreLengthMismatch: M2, with one byte too many. -/
theorem test_witness_trailing :
    let s := loaded Config.default (fAck ++ [0x55]) 11
    s.live ∧ s.cfg.minBuf.bytes ≤ s.bufLen ∧ s.cfg.strictEnd = true ∧
    s.inBuf.startsWith [0xB5, 0x62, 0x05, 0x01, 0x02, 0x00] ∧
    8 + ((0x02 : Byte).toNat + 256 * (0x00 : Byte).toNat) < s.bufLen ∧
    s.inBuf.read (6 + ((0x02 : Byte).toNat + 256 * (0x00 : Byte).toNat)) = some 0x0F ∧
    s.inBuf.read (7 + ((0x02 : Byte).toNat + 256 * (0x00 : Byte).toNat)) = some 0x38 ∧
    s.result ≠ .lengthMismatch ∧ (∃ t, exec .decodeMessage s = .next t ∧ t.result = .lengthMismatch) :=
  ⟨by decide, by decide, by decide, startsWith_of_all (by decide), by decide, by decide, by decide, by decide,
    ⟨_, rfl, by decide⟩⟩

/-- FirstFailingCheckGivesTheResult: F-ACK whole. -/
theorem test_witness_first_failing :
    ack.live ∧ (∀ k, k < ack.bufLen → ack.inBuf.read k = some (fAck[k]?.getD 0)) ∧
    10 = 8 + ((fAck[4]?.getD 0).toNat + 256 * (fAck[5]?.getD 0).toNat) := by decide

/-- UnwrittenHeaderByteRaisesFault: bytes 0, 1, 2 and 5. -/
theorem test_witness_unwritten_header :
    let s := loaded Config.default (fAck.take 2) 10
    let t := loaded Config.default (fAck.take 5) 10
    s.live ∧ s.cfg.minBuf.bytes ≤ s.bufLen ∧ (loaded Config.default [] 10).inBuf.read 0 = none ∧
    (loaded Config.default [0xB5] 10).inBuf.read 0 ≠ none ∧ (loaded Config.default [0xB5] 10).inBuf.read 1 = none ∧
    s.inBuf.startsWith [0xB5, 0x62] ∧ (∀ j, j < 2 → s.inBuf.read j ≠ none) ∧ s.inBuf.read 2 = none ∧
    t.inBuf.startsWith [0xB5, 0x62] ∧ (∀ j, j < 5 → t.inBuf.read j ≠ none) ∧ t.inBuf.read 5 = none :=
  ⟨by decide, by decide, by decide, by decide, by decide, startsWith_of_all (by decide), by decide, by decide,
    startsWith_of_all (by decide), by decide, by decide⟩

/-- UnwrittenHeaderByteRaisesFault: the checksum bytes `6 + L` (H15) and `7 + L`. -/
theorem test_witness_unwritten_checksum :
    let s := loaded Config.default (fAck.take 6) 10
    let t := loaded Config.default (fAck.take 9) 10
    s.inBuf.startsWith [0xB5, 0x62, 0x05, 0x01, 0x02, 0x00] ∧
    8 + ((0x02 : Byte).toNat + 256 * (0x00 : Byte).toNat) ≤ s.bufLen ∧
    s.inBuf.read (6 + ((0x02 : Byte).toNat + 256 * (0x00 : Byte).toNat)) = none ∧
    t.inBuf.startsWith [0xB5, 0x62, 0x05, 0x01, 0x02, 0x00] ∧
    t.inBuf.read (6 + ((0x02 : Byte).toNat + 256 * (0x00 : Byte).toNat)) ≠ none ∧
    t.inBuf.read (7 + ((0x02 : Byte).toNat + 256 * (0x00 : Byte).toNat)) = none :=
  ⟨startsWith_of_all (by decide), by decide, by decide, startsWith_of_all (by decide), by decide, by decide⟩

/-- UnwrittenPayloadByteRaisesFault: M9, byte 7, the last of the payload. -/
theorem test_witness_unwritten_payload :
    let s : State := { ack with inBuf := cellsAt 0 (fAck.take 7) ++ cellsAt 8 [0x0F, 0x38] }
    s.live ∧ s.cfg.minBuf.bytes ≤ s.bufLen ∧ s.inBuf.startsWith [0xB5, 0x62, 0x05, 0x01, 0x02, 0x00] ∧
    (s.cfg.strictEnd = true → s.bufLen = 8 + ((0x02 : Byte).toNat + 256 * (0x00 : Byte).toNat)) ∧
    s.inBuf.read (6 + ((0x02 : Byte).toNat + 256 * (0x00 : Byte).toNat)) = some 0x0F ∧
    s.inBuf.read (7 + ((0x02 : Byte).toNat + 256 * (0x00 : Byte).toNat)) = some 0x38 ∧
    1 < (0x02 : Byte).toNat + 256 * (0x00 : Byte).toNat ∧ (∀ j, j < 1 → s.inBuf.read (6 + j) ≠ none) ∧
    s.inBuf.read (6 + 1) = none :=
  ⟨by decide, by decide, startsWith_of_all (by decide), by decide, by decide, by decide, by decide, by decide,
    by decide⟩

/-- MessageFollowsHeader: an error, a fault, and a message. -/
theorem test_witness_message_follows :
    (∃ t u, exec .decodeHeader (loaded Config.default fAck 9) = .next t ∧
      exec .decodeMessage (loaded Config.default fAck 9) = .next u ∧ t.fault = none ∧ t.result ≠ .ok) ∧
    (∃ t u, exec .decodeHeader (loaded Config.default (fAck.take 6) 10) = .next t ∧
      exec .decodeMessage (loaded Config.default (fAck.take 6) 10) = .next u ∧ t.fault ≠ none) ∧
    (∃ t u, exec .decodeHeader ack = .next t ∧ exec .decodeMessage ack = .next u ∧ u.fault = none ∧ u.result = .ok) :=
  ⟨⟨_, _, rfl, rfl, by decide, by decide⟩, ⟨_, _, rfl, rfl, by decide⟩, ⟨_, _, rfl, rfl, by decide, by decide⟩⟩

/-- ReservedCommandIsCommandError and CommandWriteRunsTheCommand: the word 0 and the word 3. -/
theorem test_witness_reserved_command :
    State.reset.live ∧ (0 : Word) ≠ 0x1 ∧ (0 : Word) ≠ 0x2 ∧ (3 : Word) ≠ 0x1 ∧ (3 : Word) ≠ 0x2 := by decide

/-- CommandSetsStatus and CommandsAreIdempotent: `decode.m` on F-ACK; FailedCommandLeavesNoReadableOutput: on a
truncated F-ACK. -/
theorem test_witness_commands :
    (∃ t, exec (.w32Cmd 2) ack = .next t ∧ t.fault = none ∧ t.live) ∧
    (Instr.w32Cmd 2).isCommand = true ∧
    (∃ t, exec (.w32Cmd 2) (loaded Config.default fAck 9) = .next t ∧ t.fault = none ∧ t.result ≠ .ok) :=
  ⟨⟨_, rfl, by decide, by decide⟩, rfl, ⟨_, rfl, by decide, by decide⟩⟩

/-- CommandsLeaveTheInputAlone, on a command that succeeds and on one that faults. -/
theorem test_witness_commands_leave_input :
    (∃ t, exec .decodeMessage ack = .next t) ∧
    (∃ t, exec .decodeMessage (loaded Config.default [] 10) = .next t ∧ t.fault ≠ none) :=
  ⟨⟨_, rfl⟩, ⟨_, rfl, by decide⟩⟩

/-- CommandsSeeOnlyBytesBelowBufLen and HeaderReadsOnlyListedOffsets: two states that differ at index 10, above
`BUF_LEN`, and in a payload byte. -/
theorem test_witness_unseen_bytes :
    let t := loaded Config.default (fAck ++ [0x55]) 10
    let u : State := { ack with inBuf := ack.inBuf.write 6 0xFF }
    ack.live ∧ t.live ∧ t.cfg = ack.cfg ∧ t.bufLen = ack.bufLen ∧ t.inBuf ≠ ack.inBuf ∧
    (∀ k, k < ack.bufLen → t.inBuf.read k = ack.inBuf.read k) ∧
    u.live ∧ u.cfg = ack.cfg ∧ u.bufLen = ack.bufLen ∧ u.inBuf ≠ ack.inBuf ∧
    (∀ k, k < 6 → u.inBuf.read k = ack.inBuf.read k) ∧
    ack.inBuf.read 4 = some 0x02 ∧ ack.inBuf.read 5 = some 0x00 ∧
    u.inBuf.read (6 + ((0x02 : Byte).toNat + 256 * (0x00 : Byte).toNat)) =
      ack.inBuf.read (6 + ((0x02 : Byte).toNat + 256 * (0x00 : Byte).toNat)) ∧
    u.inBuf.read (7 + ((0x02 : Byte).toNat + 256 * (0x00 : Byte).toNat)) =
      ack.inBuf.read (7 + ((0x02 : Byte).toNat + 256 * (0x00 : Byte).toNat)) := by decide

/-- ClassByteNeverGatesDecoding: F-ACK with class `0xFF`. -/
theorem test_witness_class_byte :
    let t : State := { ack with inBuf := ack.inBuf.write 2 0xFF }
    ack.live ∧ t.live ∧ t.cfg = ack.cfg ∧ t.bufLen = ack.bufLen ∧
    (∀ k, k ≠ 2 → t.inBuf.read k = ack.inBuf.read k) ∧ ack.inBuf.read 2 ≠ none ∧ t.inBuf.read 2 = some 0xFF :=
  ⟨by decide, by decide, rfl, rfl, fun _ hk => Memory.read_write_other _ _ hk, by decide, by decide⟩

/-- StrictEndMakesBothSlicingRulesAgree: F-ACK. -/
theorem test_witness_strict_end :
    ack.cfg.strictEnd = true ∧ ∃ t, exec .decodeMessage ack = .next t ∧ t.fault = none ∧ t.result = .ok :=
  ⟨rfl, _, rfl, by decide, by decide⟩

/-- FrameRoundTrip: F-NAV, and a frame with no payload under `MIN_BUF = 8` (H2b, M5a). -/
theorem test_witness_round_trip :
    let s := loaded Config.default fNav 9
    let t := loaded cfg8 fCfg0 8
    s.live ∧ ([0xAA] : List Byte).length ≤ 65535 ∧ s.inBuf.startsWith (frameBytes 0x01 0x02 [0xAA] 0xAE 0xBA) ∧
    s.bufLen = 8 + ([0xAA] : List Byte).length ∧ s.cfg.minBuf.bytes ≤ s.bufLen ∧
    t.live ∧ t.inBuf.startsWith (frameBytes 0x06 0x01 [] 0x07 0x1B) ∧ t.bufLen = 8 + ([] : List Byte).length ∧
    t.cfg.minBuf.bytes ≤ t.bufLen :=
  ⟨by decide, by decide, startsWith_of_all (by decide), by decide, by decide, by decide,
    startsWith_of_all (by decide), by decide, by decide⟩

/-- LoadedFrameDecodes: F-NAV, from a state that another frame is left in. -/
theorem test_witness_loaded_frame :
    let s := ackMessage.setInputs
      (presented (loadFrame 0 0x01 0x02 [0xAA] 0xAE 0xBA ++ [setLen (8 + ([0xAA] : List Byte).length), decodeM]))
    s.live ∧ s.cfg.wf ∧ ([0xAA] : List Byte).length ≤ 65535 ∧
    s.cfg.minBuf.bytes ≤ 8 + ([0xAA] : List Byte).length ∧ 8 + ([0xAA] : List Byte).length ≤ s.cfg.inCap := by decide

/-- PseudoInstructionsReturnTheirFields, in the state of P1. -/
theorem test_witness_pseudo :
    (ackMessage.setInputs (presented (tagOps 0x105))).live ∧
    (ackMessage.setInputs (presented resultOps)).inputs = presented resultOps := ⟨by decide, rfl⟩

/-- OutputsAreASnapshot: M11. EachInputHasOneWriter: the three writers. -/
theorem test_witness_writers :
    (Instr.w8InBuf 6 0xFF).isCommand = false ∧
    (∃ t, exec (.w8InBuf 6 0xFF) ackMessage = .next t ∧ t.inBuf.read 6 ≠ ackMessage.inBuf.read 6) ∧
    (∃ t, exec (.w32BufLen 9) ackMessage = .next t ∧ t.bufLen ≠ ackMessage.bufLen) ∧
    (∃ t, exec (.w32TagArg 5) ackMessage = .next t ∧ t.tagArg ≠ ackMessage.tagArg) :=
  ⟨rfl, ⟨_, rfl, by decide⟩, ⟨_, rfl, by decide⟩, ⟨_, rfl, by decide⟩⟩

/-- ReadsHaveNoSideEffects: a read that returns and one that faults; FaultingStepWritesNothingElse. -/
theorem test_witness_reads :
    Instr.r32Hdr0.isRead = true ∧ (∃ t, exec .r32Hdr0 ackMessage = .next t ∧ t.fault = none) ∧
    (∃ t, exec .r32Hdr0 ack = .next t ∧ t.fault ≠ none) :=
  ⟨rfl, ⟨_, rfl, by decide⟩, ⟨_, rfl, by decide⟩⟩

/-- RefusalsAreThoseOfTheSpec: both reasons are recorded by some operation. -/
theorem test_witness_refusals :
    (∃ t, exec (.badAccess .read .byte 4 0) ack = .next t ∧ t.refused = some .badAccess) ∧
    (∃ t, exec (.w32BufLen 65544) ack = .next t ∧ t.refused = some .lenOverCap) :=
  ⟨⟨_, rfl, by decide⟩, ⟨_, rfl, by decide⟩⟩

/-- FaultsAreThoseOfTheSpec: each fault, and `F_INVALID_RESULT` in each of its three forms. -/
theorem test_witness_faults :
    (∃ t, exec .decodeMessage (loaded Config.default [] 10) = .next t ∧ t.fault = some (.unwrittenInput 0)) ∧
    (∃ t, exec (.r8InBuf 10) ack = .next t ∧ t.fault = some (.unwrittenRead 10)) ∧
    (∃ t, exec .r32HdrTag ack = .next t ∧ t.fault = some (.invalidResult 0x18)) ∧
    (∃ t, exec .r32PayLen ack = .next t ∧ t.fault = some (.invalidResult 0x1C)) ∧
    (∃ t, exec (.r8PayBuf 2) ackMessage = .next t ∧ t.fault = some (.invalidResult 0x40002)) :=
  ⟨⟨_, rfl, by decide⟩, ⟨_, rfl, by decide⟩, ⟨_, rfl, by decide⟩, ⟨_, rfl, by decide⟩, ⟨_, rfl, by decide⟩⟩

/-- The statements about every live state: CmdReadReturnsZero, StatusReadReturnsItsFields, TagArgWriteStoresLowByte,
TagArgReadReturnsArgAndCode, BadAccessIsRefused, InvalidOutputReadRaisesFault, ReadOnlyWritesAreIgnored. -/
theorem test_witness_live : State.reset.live ∧ ackMessage.live ∧ State.reset.hdr = none ∧ State.reset.pay = none ∧
    Instr.w8PayBuf 0 0x11 ∈ [Instr.w32Status 0x11, .w8PayBuf 0 0x11] := by decide

/-- BufLenWriteStoresOrRefuses, on both sides of `IN_CAP`; BufLenReadReturnsLength, at the greatest length. -/
theorem test_witness_buf_len :
    State.reset.live ∧ (65543 : Word).toNat ≤ State.reset.cfg.inCap ∧ State.reset.cfg.inCap < (65544 : Word).toNat ∧
    ({ State.resetOf { Config.default with inCap := 131072 } with bufLen := 131072 } : State).bufLen ≤ 131072 := by
  decide

/-- ParameterReadsReturnThem: the defaults, and the greatest `IN_CAP`. -/
theorem test_witness_parameters :
    State.reset.live ∧ State.reset.cfg.wf ∧ State.reset.cfg = Config.default ∧
    (State.resetOf { Config.default with inCap := 131072 }).cfg.wf := by decide

/-- ClassTagTable: the last clause, at a byte between two of the table. -/
theorem test_witness_class_tag :
    (0x03 : Byte) ∉ ([0x01, 0x02, 0x04, 0x05, 0x06, 0x0A, 0x0B, 0x0D, 0x10] : List Byte) := by decide

/-- HeaderRegistersReturnTheirFields and PayLenReadReturnsLength: the state of P1. -/
theorem test_witness_outputs :
    ackMessage.live ∧ ackMessage.hdr = some ackHeader ∧ ackMessage.pay = some [0x06, 0x01] ∧
    ([0x06, 0x01] : List Byte).length ≤ 65535 := by decide

/-- InvalidOutputReadRaisesFault and PayBufReadReturnsByteOrFaults: the first index past the payload, the last index
implemented, and the last byte of the payload. -/
theorem test_witness_pay_buf :
    ackMessage.live ∧ (2 : BitVec 17).toNat < 65535 ∧ (65534 : BitVec 17).toNat < 65535 ∧
    (∃ p, ackMessage.pay = some p ∧ p.length ≤ (2 : BitVec 17).toNat) ∧
    (∃ p, ackMessage.pay = some p ∧ p[(1 : BitVec 17).toNat]? = some 0x01) :=
  ⟨by decide, by decide, by decide, ⟨_, rfl, by decide⟩, ⟨_, rfl, by decide⟩⟩

/-- InBufWriteSetsOneByte, InBufReadReturnsByteOrFaults and InBufReadsBackWhatWasWritten: the last index implemented,
a written byte, one never written, and two writes. -/
theorem test_witness_in_buf :
    ack.live ∧ (65542 : BitVec 17).toNat < ack.cfg.inCap ∧ ack.inBuf.read (9 : BitVec 17).toNat = some 0x38 ∧
    ack.inBuf.read (65542 : BitVec 17).toNat = none ∧ (4 : BitVec 17) ≠ 3 ∧
    (∃ t u, exec (.w8InBuf 3 0x7E) ack = .next t ∧ exec (.w8InBuf 4 0x11) t = .next u) :=
  ⟨by decide, by decide, by decide, by decide, by decide, ⟨_, _, rfl, rfl⟩⟩

/-- BadAccessIsRefused: each kind of access, at the ends of its range (A3, A10, A12). -/
theorem test_witness_bad_access :
    (lb 0x1FFFF).size = .byte ∧ (lb 0x1FFFF).addr.toNat < 0x20000 ∧
    (lw 0x20000).size = .word ∧ 0x20000 ≤ (lw 0x20000).addr.toNat ∧ (lw 0x5FFFC).addr.toNat < 0x60000 ∧
    (lw 0x00006).size = .word ∧ (lw 0x00006).addr.toNat % 4 ≠ 0 := by decide

/-- ReservedAddressesReadZeroIgnoreWrites: the first index past each buffer. -/
theorem test_witness_reserved :
    State.reset.live ∧ State.reset.cfg.inCap ≤ (65543 : BitVec 17).toNat ∧ 65535 ≤ (65535 : BitVec 17).toNat ∧
    Instr.r32Rsv 11 ∈ [Instr.r8Rsv 0, .r32Rsv 11, .r32RsvHi 11] ∧
    Instr.w32Rsv 11 5 ∈ [Instr.w8Rsv 0 5, .w32Rsv 11 5, .w32RsvHi 11 5] := by decide

end Sys2Proof.Tests
end

section
/-! Reads of an output that is not valid (R41, R211): one rule for every gated read, and when a `PAY_BUF` byte is not
valid. -/

namespace Sys2Proof.Machine

variable {s : State}

/-- The rule that every gated read follows (R41): in a live state, with no value to return, it records
`F_INVALID_RESULT` of its address. -/
theorem hostStep_returnsValid_of_invalid (hs : s.live) (a : Addr) (o : State → Option Word)
    (ho : o s.clearRead = none) :
    hostStep s (fun s => s.returnsValid a (o s)) =
      .next { s with fault := some (.invalidResult a), rdata := none } := by
  rw [hostStep_of_live hs, ho]
  rfl

/-- In a live state with no valid header, reading any register of the header records `F_INVALID_RESULT` (R211). -/
theorem hostStep_headerField_of_invalid (hs : s.live) (hhdr : s.hdr = none) (a : Addr) (f : Header → Word) :
    hostStep s (fun s => s.returnsValid a (s.hdr.map f)) =
      .next { s with fault := some (.invalidResult a), rdata := none } :=
  hostStep_returnsValid_of_invalid hs a (fun s => s.hdr.map f) (by simp [hhdr])

/-- In a live state with no valid payload, reading `PAY_LEN` records `F_INVALID_RESULT` (R211). -/
theorem execR32PayLen_of_invalid (hs : s.live) (hpay : s.pay = none) :
    execR32PayLen s = .next { s with fault := some (.invalidResult 0x1C), rdata := none } :=
  hostStep_returnsValid_of_invalid hs 0x1C (fun s => s.pay.map payLenWord) (by simp [hpay])

@[simp] theorem State.clearRead_payByte (i : Nat) : s.clearRead.payByte i = s.payByte i := rfl

/-- A `PAY_BUF` byte is not valid exactly when there is no payload or the payload ends at or before it (R28). -/
theorem State.payByte_eq_none_iff {i : Nat} :
    s.payByte i = none ↔ s.pay = none ∨ ∃ p, s.pay = some p ∧ p.length ≤ i := by
  cases h : s.pay <;> simp [State.payByte, h]

/-- A read of an implemented `PAY_BUF` byte is a gated read (R173). -/
theorem execR8PayBuf_of_lt {i : BitVec 17} (hi : i.toNat < payCap) :
    execR8PayBuf i s = hostStep s fun s =>
      s.returnsValid (byteAddr .payBuf i) ((s.payByte i.toNat).map fun v => v.setWidth 32) := by
  simp only [execR8PayBuf, hi, if_true]

/-- In a live state, reading an implemented `PAY_BUF` byte that is not valid records `F_INVALID_RESULT` (R211). -/
theorem execR8PayBuf_of_invalid (hs : s.live) {i : BitVec 17} (hi : i.toNat < payCap)
    (hb : s.payByte i.toNat = none) :
    execR8PayBuf i s =
      .next { s with fault := some (.invalidResult (byteAddr .payBuf i)), rdata := none } := by
  rw [execR8PayBuf_of_lt hi]
  exact hostStep_returnsValid_of_invalid hs (byteAddr .payBuf i)
    (fun s => (s.payByte i.toNat).map fun v => v.setWidth 32) (by simp [hb])

/-- Settles O53: every read it names is a gated read with no value to return, so `hostStep_returnsValid_of_invalid`
applies. -/
theorem invalidOutputReadRaisesFault : Obligations.InvalidOutputReadRaisesFault := by
  unfold Obligations.InvalidOutputReadRaisesFault
  intro s hs
  refine ⟨fun hhdr => ?_, fun hpay => ?_, fun i hi hinvalid => ?_⟩
  · exact ⟨hostStep_headerField_of_invalid hs hhdr 0x0C Header.word0,
      hostStep_headerField_of_invalid hs hhdr 0x10 Header.word1,
      hostStep_headerField_of_invalid hs hhdr 0x14 Header.frameLenWord,
      hostStep_headerField_of_invalid hs hhdr 0x18 Header.tagWord⟩
  · exact execR32PayLen_of_invalid hs hpay
  · exact execR8PayBuf_of_invalid hs hi (State.payByte_eq_none_iff.mpr hinvalid)

end Sys2Proof.Machine
end

section
/-! What an operation can leave, said once for all of them: which part of the state it may write, by the kind of the
operation (R62, R63, R64, R160). -/

namespace Sys2Proof.Machine

variable {s t : State} {i : Instr}

/-- What operation `i`, started in `s` with nothing on `rdata`, can leave. -/
inductive Effect (s : State) : Instr → State → Prop
  /-- Only a command writes the outputs (R40, R64). -/
  | finished {i : Instr} (hi : i.isCommand = true) (op : BitVec 4) (code : ResultCode) (h : Option Header)
      (p : Option (List Byte)) : Effect s i (s.finish op code h p)
  /-- A model fault, which only a command or a read raises (R210, R211). -/
  | raised {i : Instr} (hi : i.isCommand = true ∨ i.isRead = true) (f : ModelFault) : Effect s i (s.raise f)
  /-- Only a read returns a value. -/
  | returned {i : Instr} (hi : i.isRead = true) (v : Word) : Effect s i (s.returns v)
  /-- A write that the spec ignores. -/
  | ignored {i : Instr} (hc : i.isCommand = false) (hr : i.isRead = false) : Effect s i s
  /-- A refusal (R212). -/
  | refused {i : Instr} (hc : i.isCommand = false) (hr : i.isRead = false) (r : RefusalReason) :
      Effect s i (s.refuse r)
  /-- The one writer of `BUF_LEN` (R163). -/
  | setBufLen (w : Word) (hw : w.toNat ≤ s.cfg.inCap) : Effect s (.w32BufLen w) (s.setBufLen w.toNat)
  /-- The one writer of `TAG_ARG` (R167). -/
  | setTagArg (w : Word) : Effect s (.w32TagArg w) (s.setTagArg (w.extractLsb' 0 8))
  /-- The one writer of `IN_BUF` (R171). -/
  | writeIn (k : BitVec 17) (w : Word) (hk : k.toNat < s.cfg.inCap) :
      Effect s (.w8InBuf k w) (s.writeIn k.toNat (w.extractLsb' 0 8))

/-- However a command's decode ends, what it commits is a raised fault or the end of a command. -/
theorem Effect.of_commit (hi : i.isCommand = true) (op : BitVec 4) (r : Except Stop (Header × Option (List Byte))) :
    Effect s i (s.commit op r) := by
  obtain ⟨f, -, h⟩ | ⟨code, -, h⟩ | ⟨hd, p, -, h⟩ := State.commit_cases (s := s) op r
  · exact h ▸ .raised (.inl hi) f
  · exact h ▸ .finished hi op code none none
  · exact h ▸ .finished hi op .ok (some hd) p

/-- A gated read returns a value or raises a fault. -/
theorem Effect.of_returnsValid (hi : i.isRead = true) (a : Addr) (o : Option Word) :
    Effect s i (s.returnsValid a o) := by
  obtain ⟨v, -, h⟩ | ⟨-, h⟩ := State.returnsValid_cases (s := s) a o
  · exact h ▸ .returned hi v
  · exact h ▸ .raised (.inr hi) _

/-- A step that was taken left the state it was to go to. -/
theorem Effect.of_guarded {u : State} (h : guarded s u = .next t) (hu : Effect s.clearRead i u) :
    Effect s.clearRead i t :=
  (guarded_next_iff.mp h).2 ▸ hu

/-- Every operation that is performed has one of the effects of its kind, from the state that returns nothing yet. -/
theorem Effect.of_exec (h : exec i s = .next t) : Effect s.clearRead i t := by
  cases i with
  | decodeHeader | decodeMessage => exact .of_guarded h (.of_commit rfl _ _)
  | cmdReserved => exact .of_guarded h (.finished rfl _ _ _ _)
  | w32Cmd w =>
    simp only [exec, execW32Cmd] at h
    split_ifs at h
    · exact .of_guarded h (.of_commit rfl _ _)
    · exact .of_guarded h (.of_commit rfl _ _)
    · exact .of_guarded h (.finished rfl _ _ _ _)
  | w32BufLen w =>
    refine .of_guarded h ?_
    beta_reduce
    split_ifs with hw
    · exact .refused rfl rfl _
    · exact .setBufLen w (Nat.le_of_not_lt hw)
  | w32TagArg w => exact .of_guarded h (.setTagArg w)
  | w8InBuf k w =>
    refine .of_guarded h ?_
    beta_reduce
    split_ifs with hk
    · exact .writeIn k w hk
    · exact .ignored rfl rfl
  | r8InBuf k =>
    refine .of_guarded h ?_
    beta_reduce
    split_ifs
    · split
      · exact .returned rfl _
      · exact .raised (.inr rfl) _
    · exact .returned rfl _
  | r8PayBuf k =>
    refine .of_guarded h ?_
    beta_reduce
    split_ifs
    · exact .of_returnsValid rfl _ _
    · exact .returned rfl _
  | r32Hdr0 | r32Hdr1 | r32FrameLen | r32HdrTag | r32PayLen => exact .of_guarded h (.of_returnsValid rfl _ _)
  | r32Cmd | r32Status | r32BufLen | r32TagArg | r32Cfg | r32Cap | r8Rsv | r32Rsv | r32RsvHi =>
    exact .of_guarded h (.returned rfl _)
  | w32Status | w32Hdr0 | w32Hdr1 | w32FrameLen | w32HdrTag | w32PayLen | w32Cfg | w32Cap | w8PayBuf | w8Rsv
  | w32Rsv | w32RsvHi => exact .of_guarded h (.ignored rfl rfl)
  | badAccess => exact .of_guarded h (.refused rfl rfl _)

/-- No command is a read. -/
theorem isRead_of_isCommand : ∀ {i : Instr}, i.isCommand = true → i.isRead = false
  | .decodeHeader, _ | .decodeMessage, _ | .cmdReserved _, _ | .w32Cmd _, _ => rfl

/-- A command ends by a raised fault or by writing the outputs, and does nothing else. -/
theorem Effect.command_cases (h : Effect s i t) (hi : i.isCommand = true) :
    (∃ f, t = s.raise f) ∨ ∃ op code hd p, t = s.finish op code hd p := by
  cases h with
  | finished _ op code hd p => exact .inr ⟨op, code, hd, p, rfl⟩
  | raised _ f => exact .inl ⟨f, rfl⟩
  | returned hr => simp [isRead_of_isCommand hi] at hr
  | ignored hc | refused hc => simp [hc] at hi
  | setBufLen | setTagArg | writeIn => cases hi

/-- Settles O28: a command ends by `raise` or by `finish`, and neither writes an input register. -/
theorem commandsLeaveTheInputAlone : Obligations.CommandsLeaveTheInputAlone := by
  unfold Obligations.CommandsLeaveTheInputAlone
  intro i s t hi h
  obtain ⟨f, rfl⟩ | ⟨op, code, hd, p, rfl⟩ := (Effect.of_exec h).command_cases hi
  · simp
  · simp

/-- Settles O37: of the effects, only the end of a command writes an output. -/
theorem outputsAreASnapshot : Obligations.OutputsAreASnapshot := by
  unfold Obligations.OutputsAreASnapshot
  intro i s t hi h
  cases Effect.of_exec h with
  | finished hc => simp [hc] at hi
  | raised | returned | ignored | refused | setBufLen | setTagArg | writeIn => simp

end Sys2Proof.Machine
end

section
/-! The rows of the opcode table against the decoder (R82, R83). The top four bits of a selector (`wr`, `size` and the
region) leave only a few rows to try; those rows are then matched over the index inside the region. -/

namespace Sys2Proof

/-! ### Trying rows in order -/

section
variable {n : Nat} {rows : List (TableRow n)} {bits : BitVec n}

/-- A row is taken when it matches, and else the rows after it are tried. -/
theorem firstRow_cons (r : TableRow n) :
    firstRow (r :: rows) bits = if bits &&& r.mask = r.value then some r.mnemonic else firstRow rows bits := by
  by_cases h : bits &&& r.mask = r.value <;> simp [firstRow, h]

@[simp] theorem firstRow_catchAll (m : String) : firstRow (⟨0, 0, m⟩ :: rows) bits = some m := by
  simp [firstRow_cons]

/-- A first row that masks every bit away is the one taken. -/
theorem firstRow_of_head?_catchAll {m : String} (h : rows.head? = some ⟨0, 0, m⟩) : firstRow rows bits = some m := by
  obtain ⟨tail, rfl⟩ := List.head?_eq_some_iff.mp h
  exact firstRow_catchAll m

/-- Rows placed after others are tried when none of those matched. -/
theorem firstRow_append (rows' : List (TableRow n)) :
    firstRow (rows ++ rows') bits = (firstRow rows bits).or (firstRow rows' bits) := by
  simp [firstRow, List.find?_append, Option.map_or]

/-- Rows of one mnemonic, one of which matches, select that mnemonic. -/
theorem firstRow_of_forall_mnemonic {m : String} (hm : ∀ r ∈ rows, r.mnemonic = m)
    (hr : ∃ r ∈ rows, bits &&& r.mask = r.value) : firstRow rows bits = some m := by
  obtain ⟨r, hfind⟩ : ∃ r, (rows.find? fun r => bits &&& r.mask == r.value) = some r := by
    simpa [← Option.isSome_iff_exists] using hr
  simp [firstRow, hfind, hm r (List.mem_of_find?_eq_some hfind)]

end

/-- The command rows name the command that the word decodes to: past the rows of the two defined words, every row is
`CMD_RESERVED` and the last takes any word (R80, R81). -/
theorem firstRow_commandRows (w : Word) : firstRow commandRows w = some (decodeCommand w).mnemonic := by
  have hmask : w &&& 0xFFFFFFFF = w := BitVec.and_allOnes
  have hreserved : firstRow (commandRows.drop 2) w = some "CMD_RESERVED" :=
    firstRow_of_forall_mnemonic (by decide) ⟨⟨0, 0, "CMD_RESERVED"⟩, by decide, by simp⟩
  rw [show commandRows = ⟨1, 0xFFFFFFFF, "DECODE_HEADER"⟩ :: ⟨2, 0xFFFFFFFF, "DECODE_MESSAGE"⟩ ::
    commandRows.drop 2 from rfl, firstRow_cons, firstRow_cons, hreserved, hmask, decodeCommand]
  split_ifs <;> rfl

/-! ### The top four bits of a selector -/

/-- A region as the top two bits of its addresses (R51). -/
def Region.bits : Region → BitVec 2
  | .registers => 0
  | .inBuf => 1
  | .payBuf => 2
  | .upper => 3

/-- The region stands in bits 18:17 of an address, as `Region.bits` has it. -/
theorem extractLsb'_regionOf (a : Addr) : a.extractLsb' 17 2 = (regionOf a).bits := by
  have := (a.extractLsb' 17 2).isLt
  rw [regionOf_eq, ← BitVec.toNat_inj]
  split_ifs <;> simp only [Region.bits, BitVec.reduceToNat] <;> omega

/-- The selector's top four bits: `wr`, `size` and the region. -/
def selTop (d : Dir) (z : Size) (r : Region) : BitVec 4 := d.bit ++ z.bit ++ r.bits

/-- A selector is its top four bits and the index inside the region (R82). -/
theorem sel_eq_selTop_append (op : BusOp) :
    op.sel = (selTop op.dir op.size (regionOf op.addr) ++ byteIndex op.addr : BitVec 21) := by
  rw [sel_split, extractLsb'_regionOf, selTop]

/-- A bus row as it is matched over the index inside a region. -/
def TableRow.low (r : TableRow 21) : TableRow 17 :=
  ⟨r.value.extractLsb' 0 17, r.mask.extractLsb' 0 17, r.mnemonic⟩

/-- The bus rows that a selector with the top bits `c` can still match. -/
def rowsAt (c : BitVec 4) : List (TableRow 17) :=
  (busRows.filter fun r => c &&& r.mask.extractLsb' 17 4 == r.value.extractLsb' 17 4).map TableRow.low

/-- The top bits of a selector choose the rows, and its index is matched over those. -/
theorem firstRow_busRows_append (c : BitVec 4) (i : BitVec 17) :
    firstRow busRows (c ++ i : BitVec 21) = firstRow (rowsAt c) i := by
  simp only [firstRow, rowsAt, row_match_split, List.find?_map, List.find?_filter, Function.comp_def, TableRow.low,
    Option.map_map, Bool.decide_and, Bool.decide_eq_true]

/-! ### The rows of the register region -/

/-- The rows of registers named `names`, at the word indexes from `k` up. -/
def registerRows : Nat → List String → List (TableRow 17)
  | _, [] => []
  | k, m :: names => ⟨BitVec.ofNat 17 (4 * k), 0x1FFFF, m⟩ :: registerRows (k + 1) names

/-- Register rows name the register at the index, if that is a multiple of 4 at or past their first (R25). -/
theorem firstRow_registerRows {i : BitVec 17} (names : List String) {k : Nat}
    (hn : 4 * (k + names.length) ≤ 2 ^ 17) :
    firstRow (registerRows k names) i =
      if i.toNat % 4 = 0 ∧ k ≤ i.toNat / 4 then names[i.toNat / 4 - k]? else none := by
  induction names generalizing k with
  | nil => simp [registerRows, firstRow]
  | cons m names ih =>
    rw [List.length_cons] at hn
    have hmask : i &&& 0x1FFFF = i := BitVec.and_allOnes
    have hvalue : i = BitVec.ofNat 17 (4 * k) ↔ i.toNat = 4 * k := by
      rw [← BitVec.toNat_inj, BitVec.toNat_ofNat, Nat.mod_eq_of_lt (by omega)]
    simp only [registerRows, firstRow_cons, hmask, hvalue, ih (k := k + 1) (by omega)]
    by_cases hhead : i.toNat = 4 * k
    · simp [hhead]
    · by_cases hlater : i.toNat % 4 = 0 ∧ k + 1 ≤ i.toNat / 4
      · rw [if_neg hhead, if_pos hlater, if_pos (by omega),
          show i.toNat / 4 - k = i.toNat / 4 - (k + 1) + 1 by omega, List.getElem?_cons_succ]
      · rw [if_neg hhead, if_neg hlater, if_neg (by omega)]

theorem isAligned_iff_byteIndex (a : Addr) : isAligned a = true ↔ (byteIndex a).toNat % 4 = 0 := by
  simp only [isAligned, byteIndex, beq_iff_eq, BitVec.extractLsb'_toNat, Nat.shiftRight_zero]
  omega

/-- Four bytes to a word. -/
theorem wordIndex_toNat (a : Addr) : (wordIndex a).toNat = (byteIndex a).toNat / 4 := by
  simp only [wordIndex, byteIndex, BitVec.extractLsb'_toNat, Nat.shiftRight_eq_div_pow]
  omega

/-- The last two rows of a region of 32-bit words: its aligned words, then every access. -/
def reservedRows (m : String) : List (TableRow 17) := [⟨0, 3, m⟩, ⟨0, 0, "BAD_ACCESS"⟩]

theorem firstRow_reservedRows (a : Addr) (m : String) :
    firstRow (reservedRows m) (byteIndex a) = some (if isAligned a then m else "BAD_ACCESS") := by
  rw [reservedRows, firstRow_cons, firstRow_catchAll, ← byteIndex_and_three]
  simp only [beq_iff_eq]
  split_ifs <;> rfl

/-- Over the register region, the rows name the register at an aligned address, `m` where no register is, and
`BAD_ACCESS` at every other address (R25, R83). -/
theorem firstRow_registerRegion (a : Addr) {names : List String} (hn : 4 * names.length ≤ 2 ^ 17) (m : String) :
    firstRow (registerRows 0 names ++ reservedRows m) (byteIndex a) =
      some (if isAligned a then names[(wordIndex a).toNat]?.getD m else "BAD_ACCESS") := by
  rw [firstRow_append, firstRow_registerRows names (by omega), firstRow_reservedRows, wordIndex_toNat]
  simp only [isAligned_iff_byteIndex, Nat.zero_le, and_true, Nat.sub_zero]
  split_ifs
  · cases names[(byteIndex a).toNat / 4]? <;> rfl
  · rfl

/-! ### The decoder by mnemonic -/

/-- The names of the register reads, by word index (R25). -/
def readNames : List String := registerReadRows.map (·.mnemonic)

/-- The names of the register writes, by word index (R25). -/
def writeNames : List String := registerWriteRows.map (·.mnemonic)

/-- A register read is named by its word index; past the last register it is `R32_RSV`. -/
theorem decodeRegRead_mnemonic (k : BitVec 15) :
    (decodeRegRead k).mnemonic = readNames[k.toNat]?.getD "R32_RSV" := by
  unfold decodeRegRead
  split
  case h_12 =>
    have hk : 11 ≤ k.toNat := by
      simp only [imp_false] at *
      omega
    rw [List.getElem?_eq_none hk]
    rfl
  all_goals simp only [*]; rfl

/-- A register write is named by its word index; past the last register it is `W32_RSV`. -/
theorem decodeRegWrite_mnemonic (k : BitVec 15) (w : Word) :
    (decodeRegWrite k w).mnemonic = writeNames[k.toNat]?.getD "W32_RSV" := by
  unfold decodeRegWrite
  split
  case h_12 =>
    have hk : 11 ≤ k.toNat := by
      simp only [imp_false] at *
      omega
    rw [List.getElem?_eq_none hk]
    rfl
  all_goals simp only [*]; rfl

/-- The bus rows name the operation that the decoder gives (R82, R83). -/
theorem firstRow_busRows (op : BusOp) : firstRow busRows op.sel = some (decodeBus op).mnemonic := by
  obtain ⟨d, z, a, w⟩ := op
  rw [sel_eq_selTop_append, firstRow_busRows_append]
  cases z with
  | byte =>
    -- the first row left masks the whole index away
    cases d <;> cases hr : regionOf a <;> simp only [decodeBus, hr] <;> exact firstRow_of_head?_catchAll rfl
  | word =>
    cases hr : regionOf a with
    | registers =>
      cases d with
      | read =>
        rw [show rowsAt (selTop .read .word .registers) =
            registerRows 0 readNames ++ reservedRows "R32_RSV" from rfl,
          firstRow_registerRegion a (by decide), ← decodeRegRead_mnemonic]
        simp only [decodeBus, hr]
        split_ifs <;> rfl
      | write =>
        rw [show rowsAt (selTop .write .word .registers) =
            registerRows 0 writeNames ++ reservedRows "W32_RSV" from rfl,
          firstRow_registerRegion a (by decide), ← decodeRegWrite_mnemonic _ w]
        simp only [decodeBus, hr]
        split_ifs <;> rfl
    | inBuf | payBuf =>
      -- only the row of every access is left
      cases d <;> simp only [decodeBus, hr] <;> exact firstRow_of_head?_catchAll rfl
    | upper =>
      cases d with
      | read =>
        rw [show rowsAt (selTop .read .word .upper) = reservedRows "R32_RSV_HI" from rfl,
          firstRow_reservedRows]
        simp only [decodeBus, hr]
        split_ifs <;> rfl
      | write =>
        rw [show rowsAt (selTop .write .word .upper) = reservedRows "W32_RSV_HI" from rfl,
          firstRow_reservedRows]
        simp only [decodeBus, hr]
        split_ifs <;> rfl

/-! ### The selector -/

/-- `SEL` as a number: `wr` at bit 20, `size` at bit 19, `addr` below (R82). -/
theorem sel_toNat (op : BusOp) : op.sel.toNat =
    (if op.dir = .write then 2 ^ 20 else 0) + (if op.size = .word then 2 ^ 19 else 0) + op.addr.toNat := by
  obtain ⟨d, z, a, w⟩ := op
  have hlt : a.toNat < 2 ^ 19 := a.isLt
  rw [BusOp.sel, BitVec.toNat_append, ← Nat.shiftLeft_add_eq_or_of_lt hlt]
  cases d <;> cases z <;> simp [Dir.bit, Size.bit]

/-- A selector holds the whole operation but its `wdata`. -/
theorem ofSel_sel (op : BusOp) : BusOp.ofSel op.sel op.wdata = op := by
  obtain ⟨d, z, a, w⟩ := op
  have haddr : (BusOp.sel ⟨d, z, a, w⟩).extractLsb' 0 19 = a := Machine.extract_append_all _ _
  rw [BusOp.ofSel, haddr]
  simp only [BusOp.sel, BitVec.getLsbD_append]
  cases d <;> cases z <;> rfl

/-- `wdata` is ignored for reads (R82). -/
theorem decodeBus_read_wdata {op : BusOp} (h : op.dir = .read) (w : Word) :
    decodeBus { op with wdata := w } = decodeBus op := by
  obtain ⟨d, z, a, w'⟩ := op
  obtain rfl : d = .read := h
  cases z <;> cases hr : regionOf a <;> simp [decodeBus, hr, carried]

/-- Settles O3: the shape of the selector, the two tables of rows, and the ignored `wdata` of a read, each from its own
lemma. -/
theorem opcodeTableAgreesWithDecoder : Obligations.OpcodeTableAgreesWithDecoder := by
  unfold Obligations.OpcodeTableAgreesWithDecoder
  exact ⟨sel_toNat, ofSel_sel, firstRow_busRows, firstRow_commandRows, fun _ w h => decodeBus_read_wdata h w⟩

end Sys2Proof
end

section
/-! The write to `CMD`: it performs the command that its word decodes to (R80, R161). -/

namespace Sys2Proof.Machine

/-- A word that R80 does not define is reserved (R81). -/
theorem decodeCommand_of_reserved {w : Word} (h1 : w ≠ 0x1) (h2 : w ≠ 0x2) : decodeCommand w = .cmdReserved w := by
  rw [decodeCommand, if_neg h1, if_neg h2]

/-- `W32 CMD` is the command that `wdata` selects (R161). -/
theorem exec_w32Cmd (w : Word) (s : State) : exec (.w32Cmd w) s = exec (decodeCommand w) s := by
  change execW32Cmd w s = _
  rw [execW32Cmd, decodeCommand]
  split_ifs <;> rfl

/-- A reserved command ends with `CMD_ERROR` and every output invalid (R81). -/
theorem exec_cmdReserved_of_live {s : State} (hs : s.live) (w : Word) :
    exec (.cmdReserved w) s = .next (s.clearRead.finish (w.extractLsb' 0 4) .cmdError none none) :=
  hostStep_of_live hs fun s => s.finish (w.extractLsb' 0 4) .cmdError none none

/-- Settles O24: the write of a reserved word performs `CMD_RESERVED`, which in a live state is one `finish`. -/
theorem reservedCommandIsCommandError : Obligations.ReservedCommandIsCommandError := by
  unfold Obligations.ReservedCommandIsCommandError
  intro s w hs h1 h2
  have hdecode := decodeCommand_of_reserved h1 h2
  refine ⟨hdecode, ⟨none, ?_⟩, ⟨none, ?_⟩⟩
  · exact exec_cmdReserved_of_live hs w
  · rw [exec_w32Cmd, hdecode]
    exact exec_cmdReserved_of_live hs w

/-- The 32-bit write at offset 0 is `W32 CMD` (R25). -/
theorem decode_cmd_write (w : Word) : decode (.bus (sw 0x00 w)) = .w32Cmd w := by
  simp [decode, decodeBus, sw, regionOf, isAligned, wordIndex, decodeRegWrite]

/-- A step performs the next operation, with the inputs after it still to come (R20). -/
theorem step_op (s : State) (e : Encoded) (rest : List HostInput) :
    step { s with inputs := .op e :: rest } = exec (decode e) (s.setInputs rest) := rfl

/-- The bus write of `w` to `CMD` and the command word `w` presented alone are one step (R80, R82; log 9). -/
theorem step_cmd_write (s : State) (w : Word) (rest : List HostInput) :
    step { s with inputs := .op (.bus (sw 0x00 w)) :: rest } = step { s with inputs := .op (.cmd w) :: rest } := by
  rw [step_op, step_op, decode_cmd_write, exec_w32Cmd, decode]

/-- Settles O25: each clause is `exec_w32Cmd`, at the two defined words, at a reserved one, and inside a step. -/
theorem commandWriteRunsTheCommand : Obligations.CommandWriteRunsTheCommand := by
  unfold Obligations.CommandWriteRunsTheCommand
  refine ⟨fun s => ⟨exec_w32Cmd 0x1 s, exec_w32Cmd 0x2 s⟩, fun s w h1 h2 => ?_, step_cmd_write⟩
  rw [exec_w32Cmd, decodeCommand_of_reserved h1 h2]

end Sys2Proof.Machine
end

section
/-! The header decode when it fails (R102, R105): what `headerCore` answers, and what both decode commands commit when
it stops (R110, R134). -/

namespace Sys2Proof.Machine

/-! ### The length field -/

/-- The unpacked field is the two bytes side by side, the high one on top (R101). -/
theorem u16le_eq_append (lo hi : Byte) : u16le lo hi = hi ++ lo := by
  rw [BitVec.append_def, BitVec.shiftLeftZeroExtend_eq, BitVec.setWidth'_eq, BitVec.or_comm, u16le]

/-- Settles O13: two bytes side by side are a shift of the high one plus the low one. -/
theorem u16leIsLowPlus256High : Obligations.U16leIsLowPlus256High := by
  unfold Obligations.U16leIsLowPlus256High
  intro lo hi
  calc (u16le lo hi).toNat
      = hi.toNat <<< 8 + lo.toNat := by
        rw [u16le_eq_append, BitVec.toNat_append, Nat.shiftLeft_add_eq_or_of_lt lo.isLt]
    _ = lo.toNat + 256 * hi.toNat := by
        rw [Nat.shiftLeft_eq]
        omega

/-- The frame boundary that the two length bytes declare (R101, R106). -/
theorem frameEnd_u16le (lo hi : Byte) : frameEnd (u16le lo hi) = 8 + (lo.toNat + 256 * hi.toNat) :=
  congrArg (8 + ·) (u16leIsLowPlus256High lo hi)

/-! ### A header that stops both decodes -/

variable {s : State} {c : Config} {n : Nat} {m : Memory} {e : Stop} {code : ResultCode}

/-- `DECODE_HEADER` commits the stop of its header (R110). -/
theorem exec_decodeHeader_of_error (hs : s.live) (h : headerCore s.cfg s.bufLen s.inBuf = .error e) :
    exec .decodeHeader s = .next (s.clearRead.commit 1 (.error e)) := by
  change execDecodeHeader s = _
  rw [execDecodeHeader, hostStep_of_live hs]
  simp [h, Except.map]

/-- `DECODE_MESSAGE` commits the stop of its decode (R134). -/
theorem exec_decodeMessage_of_error (hs : s.live) (h : messageCore s.cfg s.bufLen s.inBuf = .error e) :
    exec .decodeMessage s = .next (s.clearRead.commit 2 (.error e)) := by
  change execDecodeMessage s = _
  rw [execDecodeMessage, hostStep_of_live hs]
  simp [h, Except.map]

/-- A header that fails with a code ends both decodes with that code and no output, and changes nothing else
(R110, R134). -/
theorem exec_decodes_of_headerCore_failed (hs : s.live)
    (h : headerCore s.cfg s.bufLen s.inBuf = .error (.failed code)) :
    (∃ d, exec .decodeHeader s = .next
      { s with lastOp := 1, result := code, hdr := none, pay := none, rdata := d }) ∧
    (∃ d, exec .decodeMessage s = .next
      { s with lastOp := 2, result := code, hdr := none, pay := none, rdata := d }) :=
  ⟨⟨none, exec_decodeHeader_of_error hs h⟩,
    ⟨none, exec_decodeMessage_of_error hs (messageCore_error_iff.mpr (.inl h))⟩⟩

/-! ### The two checks -/

/-- The size check comes first and reads no byte (R102). -/
theorem headerCore_of_small (h : n < c.minBuf.bytes) : headerCore c n m = .error (.failed .headerTooSmall) :=
  headerCore_failed_iff.mpr (.inl ⟨h, rfl⟩)

/-- The bounds check fails on the first six bytes alone, whatever stands after them (R105). -/
theorem headerCore_of_truncated {cls d lo hi : Byte} (hn : c.minBuf.bytes ≤ n)
    (hm : m.startsWith [sync0, sync1, cls, d, lo, hi]) (hend : n < frameEnd (u16le lo hi)) :
    headerCore c n m = .error (.failed .bufferTooShort) :=
  headerCore_failed_iff.mpr <| .inr ⟨hn, sync0, sync1, hm 0 _ rfl, hm 1 _ rfl, .inr ⟨rfl, rfl,
    cls, d, lo, hi, hm 2 _ rfl, hm 3 _ rfl, hm 4 _ rfl, hm 5 _ rfl, hend, rfl⟩⟩

/-- Settles O14: `headerCore_of_small`, and both decodes fail as their header does. -/
theorem smallBufferIsHeaderTooSmall : Obligations.SmallBufferIsHeaderTooSmall := by
  unfold Obligations.SmallBufferIsHeaderTooSmall
  intro s hs hn
  exact exec_decodes_of_headerCore_failed hs (headerCore_of_small hn)

/-- Settles O16: `headerCore_of_truncated` with the boundary `8 + L` in natural numbers, and both decodes fail as
their header does. -/
theorem truncatedFrameIsBufferTooShort : Obligations.TruncatedFrameIsBufferTooShort := by
  unfold Obligations.TruncatedFrameIsBufferTooShort
  intro s c d lo hi hs hn hm hend
  rw [← frameEnd_u16le] at hend
  exact exec_decodes_of_headerCore_failed hs (headerCore_of_truncated hn hm hend)

end Sys2Proof.Machine
end

section
/-! The message decode after the header decode (R130, R131): where the header stops so does the message, and a header
that decodes is the header of the message. -/

namespace Sys2Proof.Machine

variable {s : State} {c : Config} {n : Nat} {m : Memory} {h : Header}

/-- `DECODE_HEADER` publishes a header that decodes, and no payload (R110). -/
theorem exec_decodeHeader_of_ok (hs : s.live) (hh : headerCore s.cfg s.bufLen s.inBuf = .ok h) :
    exec .decodeHeader s = .next (s.clearRead.finish 1 .ok (some h) none) := by
  change execDecodeHeader s = _
  rw [execDecodeHeader, hostStep_of_live hs]
  simp [hh, Except.map, State.commit]

/-- `DECODE_MESSAGE` publishes the header and the payload of a message that decodes (R134). -/
theorem exec_decodeMessage_of_ok {p : List Byte} (hs : s.live)
    (hm : messageCore s.cfg s.bufLen s.inBuf = .ok (h, p)) :
    exec .decodeMessage s = .next (s.clearRead.finish 2 .ok (some h) (some p)) := by
  change execDecodeMessage s = _
  rw [execDecodeMessage, hostStep_of_live hs]
  simp [hm, Except.map, State.commit]

/-- The payload's reads end with a fault or with the payload, never with a result code (R133). -/
theorem payloadCore_cases (m : Memory) (len : BitVec 16) :
    (∃ f, payloadCore m len = .error (.raised f)) ∨ ∃ p, payloadCore m len = .ok p := by
  cases hp : payloadCore m len with
  | error e =>
    obtain ⟨k, -, -, -, rfl⟩ := readRun_error hp
    exact .inl ⟨_, rfl⟩
  | ok p => exact .inr ⟨p, rfl⟩

/-- Once the header decodes, the message fails at the end check, stops at a payload read, or decodes with that same
header (R130 to R133). -/
theorem messageCore_cases_of_headerCore_ok (hh : headerCore c n m = .ok h) :
    messageCore c n m = .error (.failed .lengthMismatch) ∨ (∃ f, messageCore c n m = .error (.raised f)) ∨
      ∃ p, messageCore c n m = .ok (h, p) := by
  by_cases hend : c.strictEnd = true ∧ n ≠ frameEnd h.len
  · exact .inl (messageCore_error_iff.mpr (.inr ⟨h, hh, .inl ⟨hend.1, hend.2, rfl⟩⟩))
  · obtain ⟨f, hf⟩ | ⟨p, hp⟩ := payloadCore_cases m h.len
    · exact .inr (.inl ⟨f, messageCore_error_iff.mpr (.inr ⟨h, hh, .inr ⟨hend, hf⟩⟩)⟩)
    · exact .inr (.inr ⟨p, messageCore_ok_iff.mpr ⟨hh, hend, hp⟩⟩)

/-- Settles O23: both decodes commit one stop of the header; past the header, `DECODE_MESSAGE` ends with `OK` only by
publishing the same header. -/
theorem messageFollowsHeader : Obligations.MessageFollowsHeader := by
  unfold Obligations.MessageFollowsHeader
  intro s t u ht hu
  have hs : s.live := (guarded_next_iff.mp ht).1
  cases hh : headerCore s.cfg s.bufLen s.inBuf with
  | error e =>
    have hm : messageCore s.cfg s.bufLen s.inBuf = .error e := messageCore_error_iff.mpr (.inl hh)
    obtain rfl : _ = t := by simpa [exec_decodeHeader_of_error hs hh] using ht
    obtain rfl : _ = u := by simpa [exec_decodeMessage_of_error hs hm] using hu
    cases e with
    | raised f => simp [State.commit]
    | failed code => simp [State.commit, hs.1]
  | ok h =>
    obtain rfl : _ = t := by simpa [exec_decodeHeader_of_ok hs hh] using ht
    have hpast : u.fault = none → u.result = .ok → u.hdr = some h := by
      obtain hm | ⟨f, hm⟩ | ⟨p, hm⟩ := messageCore_cases_of_headerCore_ok hh
      · obtain rfl : _ = u := by simpa [exec_decodeMessage_of_error hs hm] using hu
        simp [State.commit]
      · obtain rfl : _ = u := by simpa [exec_decodeMessage_of_error hs hm] using hu
        simp [State.commit]
      · obtain rfl : _ = u := by simpa [exec_decodeMessage_of_ok hs hm] using hu
        simp
    exact ⟨by simp, by simp [hs.1], fun hfault hok => by simp [hs.1, hpast hfault hok]⟩

end Sys2Proof.Machine
end

section
/-! The class-tag lookup (R151): the nine rows of its table, and the code 0 of every byte outside it. -/

namespace Sys2Proof.Machine

/-- Each row but the last fixes the byte as one of the table, so outside the table only the last row is left. -/
theorem classTag_eq_zero_of_not_mem {b : Byte}
    (hb : b ∉ ([0x01, 0x02, 0x04, 0x05, 0x06, 0x0A, 0x0B, 0x0D, 0x10] : List Byte)) : classTag b = 0 := by
  unfold classTag
  split
  case h_10 => rfl
  all_goals
    rename_i hrow
    exact absurd (by simp [← BitVec.toNat_inj, hrow]) hb

/-- Settles O49: the nine rows compute, and the default is `classTag_eq_zero_of_not_mem`. -/
theorem classTagTable : Obligations.ClassTagTable :=
  ⟨rfl, rfl, rfl, rfl, rfl, rfl, rfl, rfl, rfl, fun _ => classTag_eq_zero_of_not_mem⟩

end Sys2Proof.Machine
end

section
/-! Accesses that break the width rules (R55, R176): the legal accesses by region, and what the decoder makes of the
others. -/

namespace Sys2Proof

/-- An 8-bit access is legal outside the register region (R55). -/
theorem legalAccess_byte (a : Addr) : legalAccess .byte a = !decide (regionOf a = .registers) := by
  by_cases hlow : a.toNat < 0x20000
  · simp [legalAccess, regionOf, hlow]
  · have hregion : regionOf a ≠ .registers := by
      unfold regionOf
      split_ifs <;> decide
    simp [legalAccess, hregion, Nat.le_of_not_lt hlow]

/-- A 32-bit access is legal at an aligned address outside the two buffer windows (R55). -/
theorem legalAccess_word (a : Addr) :
    legalAccess .word a = (isAligned a && (decide (regionOf a = .registers) || decide (regionOf a = .upper))) := by
  unfold legalAccess isAligned regionOf
  split_ifs <;> simp <;> omega

/-- Every access that breaks the width rules decodes to `BAD_ACCESS` of itself (R55, R83). -/
theorem decodeBus_of_not_legal {op : BusOp} (h : legalAccess op.size op.addr = false) :
    decodeBus op = .badAccess op.dir op.size op.addr (carried op.dir op.wdata) := by
  obtain ⟨d, z, a, w⟩ := op
  cases z with
  | byte =>
    have hr : regionOf a = .registers := by simpa [legalAccess_byte] using h
    cases d <;> simp [decodeBus, hr]
  | word =>
    rw [legalAccess_word] at h
    cases hr : regionOf a with
    | registers | upper =>
      have hmisaligned : isAligned a = false := by simpa [hr] using h
      cases d <;> simp [decodeBus, hr, hmisaligned, carried]
    | inBuf | payBuf => cases d <;> simp [decodeBus, hr]

end Sys2Proof

namespace Sys2Proof.Machine

variable {s : State}

/-- `BAD_ACCESS` records its refusal and has no other effect (R176). -/
theorem exec_badAccess_of_live (hs : s.live) (d : Dir) (z : Size) (a : Addr) (w : Word) :
    exec (.badAccess d z a w) s = .next { s with refused := some .badAccess, rdata := none } :=
  hostStep_of_live hs fun s => s.refuse .badAccess

/-- Settles O60: each access it names is illegal, so it decodes to `BAD_ACCESS`. -/
theorem badAccessIsRefused : Obligations.BadAccessIsRefused := by
  unfold Obligations.BadAccessIsRefused
  refine fun s hs => ⟨fun d z a w => ⟨none, exec_badAccess_of_live hs d z a w⟩, fun op hop => ⟨none, ?_⟩⟩
  have hillegal : legalAccess op.size op.addr = false := by
    obtain ⟨hz, hlow⟩ | ⟨hz, hlow, hhigh⟩ | ⟨hz, hmisaligned⟩ := hop
    · simp [legalAccess, hz, hlow]
    · simp [legalAccess, hz, Nat.not_lt.mpr hlow, hhigh]
    · simp [legalAccess, hz, hmisaligned]
  rw [decodeBus_of_not_legal hillegal]
  exact exec_badAccess_of_live hs _ _ _ _

end Sys2Proof.Machine
end

section
/-! The register reads that are valid in every state (R162, R164, R165, R168, R169): one rule for them all, and the
fields of the words they return. A field is the part of the concatenation left past the parts below it; `simp` finds it
once the widths stay the sums that the laws of `++` are about (hence `-Nat.reduceAdd`). -/

namespace Sys2Proof.Machine

variable {s : State}

/-- A read that is valid in every state returns its value and changes nothing else (R62, R160). -/
theorem hostStep_returns_of_live (hs : s.live) (f : State → Word) :
    hostStep s (fun s => s.returns (f s)) = .next { s with rdata := some (f s.clearRead) } :=
  hostStep_of_live hs fun s => s.returns (f s)

/-- Settles O43: `R32 CMD` returns a constant. -/
theorem cmdReadReturnsZero : Obligations.CmdReadReturnsZero :=
  fun _ hs => hostStep_returns_of_live hs fun _ => 0

/-- A one-bit field is the bit. -/
theorem getLsbD_of_extractLsb'_one {n k : Nat} {a : BitVec n} {b : Bool} (h : a.extractLsb' k 1 = BitVec.ofBool b) :
    a.getLsbD k = b := by
  simpa using congrArg (·.getLsbD 0) h

/-! ### STATUS -/

/-- The fields of `STATUS`, from bit 0 up (R30). -/
theorem State.statusWord_fields (s : State) :
    s.statusWord.extractLsb' 0 3 = s.result.code ∧
    s.statusWord.extractLsb' 3 1 = BitVec.ofBool s.hdrValid ∧
    s.statusWord.extractLsb' 4 1 = BitVec.ofBool s.payValid ∧
    s.statusWord.extractLsb' 5 1 = BitVec.ofBool busy ∧
    s.statusWord.extractLsb' 6 2 = 0 ∧
    s.statusWord.extractLsb' 8 4 = s.lastOp ∧
    s.statusWord.extractLsb' 12 20 = 0 := by
  simp [-Nat.reduceAdd, State.statusWord, extract_append_high, extract_append_all]

/-- Settles O44: `R32 STATUS` returns `State.statusWord`, whose fields are `State.statusWord_fields`. -/
theorem statusReadReturnsItsFields : Obligations.StatusReadReturnsItsFields := by
  unfold Obligations.StatusReadReturnsItsFields
  intro s hs
  obtain ⟨hresult, hhdr, hpay, hbusy, hzeros, hlastOp, hrest⟩ := s.statusWord_fields
  exact ⟨s.statusWord, hostStep_returns_of_live hs State.statusWord, hresult.trans (by cases s.result <;> rfl),
    getLsbD_of_extractLsb'_one hhdr, getLsbD_of_extractLsb'_one hpay, getLsbD_of_extractLsb'_one hbusy, hzeros,
    hlastOp, hrest⟩

/-! ### BUF_LEN -/

/-- A number that fits 18 bits is the number of its zero-extended word (R26, R36). -/
theorem toNat_zero_append_ofNat {n : Nat} (h : n ≤ 131072) : (0#14 ++ BitVec.ofNat 18 n).toNat = n := by
  rw [zero_append_toNat, BitVec.toNat_ofNat, Nat.mod_eq_of_lt (by omega)]

/-- Settles O46: a length within any `IN_CAP` fits the 18 bits of `LEN`. -/
theorem bufLenReadReturnsLength : Obligations.BufLenReadReturnsLength :=
  fun s hs hlen => ⟨s.bufLenWord, hostStep_returns_of_live hs State.bufLenWord, toNat_zero_append_ofNat hlen⟩

/-! ### TAG_ARG -/

/-- The fields of `TAG_ARG`, from bit 0 up (R39). -/
theorem State.tagArgWord_fields (s : State) :
    s.tagArgWord.extractLsb' 0 8 = s.tagArg ∧ s.tagArgWord.extractLsb' 8 4 = classTag s.tagArg ∧
    s.tagArgWord.extractLsb' 12 20 = 0 := by
  simp [-Nat.reduceAdd, State.tagArgWord, extract_append_high, extract_append_all]

/-- Settles O48: `R32 TAG_ARG` returns `State.tagArgWord`, whose fields are `State.tagArgWord_fields`. -/
theorem tagArgReadReturnsArgAndCode : Obligations.TagArgReadReturnsArgAndCode :=
  fun s hs => ⟨s.tagArgWord, hostStep_returns_of_live hs State.tagArgWord, s.tagArgWord_fields⟩

/-! ### CFG and CAP -/

/-- `R32 CFG` returns the word of the parameters (R169). -/
theorem exec_r32Cfg_of_live (hs : s.live) : exec .r32Cfg s = .next { s with rdata := some (cfgWord s.cfg) } :=
  hostStep_returns_of_live hs fun s => cfgWord s.cfg

/-- `R32 CAP` returns the word of `IN_CAP` (R169). -/
theorem exec_r32Cap_of_live (hs : s.live) : exec .r32Cap s = .next { s with rdata := some (capWord s.cfg) } :=
  hostStep_returns_of_live hs fun s => capWord s.cfg

/-- The fields of `CFG`, from bit 0 up (R35). -/
theorem cfgWord_fields (c : Config) :
    (cfgWord c).extractLsb' 0 4 = BitVec.ofNat 4 c.minBuf.bytes ∧
    (cfgWord c).extractLsb' 4 1 = BitVec.ofBool c.strictEnd ∧ (cfgWord c).extractLsb' 5 27 = 0 := by
  simp [-Nat.reduceAdd, cfgWord, extract_append_high, extract_append_all]

/-- `MIN_BUF` fits its four bits of `CFG` (R7, R35). -/
theorem toNat_ofNat_minBuf (m : MinBuf) : (BitVec.ofNat 4 m.bytes).toNat = m.bytes := by
  cases m <;> rfl

/-- Settles O50: the fields of `cfgWord`, a capacity that fits the 18 bits of `CAP`, and both words at the defaults. -/
theorem parameterReadsReturnThem : Obligations.ParameterReadsReturnThem := by
  unfold Obligations.ParameterReadsReturnThem
  refine ⟨fun s hs hcfg => ⟨⟨cfgWord s.cfg, exec_r32Cfg_of_live hs, ?_⟩,
    capWord s.cfg, exec_r32Cap_of_live hs, toNat_zero_append_ofNat hcfg.2⟩, fun s hs hcfg => ?_⟩
  · obtain ⟨hmin, hstrict, hrest⟩ := cfgWord_fields s.cfg
    exact ⟨by rw [hmin, toNat_ofNat_minBuf], getLsbD_of_extractLsb'_one hstrict, hrest⟩
  · rw [exec_r32Cfg_of_live hs, exec_r32Cap_of_live hs, hcfg]
    exact ⟨rfl, rfl⟩

end Sys2Proof.Machine
end

section
/-! The host's writes outside `CMD` (R163, R167, R170, R171, R174): what is stored, refused or ignored. -/

namespace Sys2Proof.Machine

variable {s : State} {i : BitVec 17} {w : Word}

/-- Settles O47: `W32 TAG_ARG` is one `setTagArg`. -/
theorem tagArgWriteStoresLowByte : Obligations.TagArgWriteStoresLowByte :=
  fun _ w hs => ⟨none, hostStep_of_live hs fun s => s.setTagArg (w.extractLsb' 0 8)⟩

/-- `W32 BUF_LEN` stores a length up to `IN_CAP` (R163). -/
theorem execW32BufLen_of_le (hs : s.live) (hw : w.toNat ≤ s.cfg.inCap) :
    execW32BufLen w s = .next { s with bufLen := w.toNat, rdata := none } :=
  hostStep_next_iff.mpr ⟨hs, (if_neg (Nat.not_lt.mpr hw)).symm⟩

/-- `W32 BUF_LEN` of a length above `IN_CAP` is refused (R163, R212). -/
theorem execW32BufLen_of_lt (hs : s.live) (hw : s.cfg.inCap < w.toNat) :
    execW32BufLen w s = .next { s with refused := some .lenOverCap, rdata := none } :=
  hostStep_next_iff.mpr ⟨hs, (if_pos hw).symm⟩

/-- Settles O45: the two branches of `execW32BufLen`. -/
theorem bufLenWriteStoresOrRefuses : Obligations.BufLenWriteStoresOrRefuses :=
  fun _ _ hs => ⟨fun hw => ⟨none, execW32BufLen_of_le hs hw⟩, fun hw => ⟨none, execW32BufLen_of_lt hs hw⟩⟩

/-- A write that the spec ignores leaves a live state as it was, but for the read port (R53). -/
theorem writeIgnored_of_live (hs : s.live) : writeIgnored s = .next { s with rdata := none } :=
  hostStep_of_live hs fun s => s

/-- Settles O54: each of the nine writes is `writeIgnored`. -/
theorem readOnlyWritesAreIgnored : Obligations.ReadOnlyWritesAreIgnored := by
  unfold Obligations.ReadOnlyWritesAreIgnored
  intro s r i w hs hr
  have hexec : exec r s = writeIgnored s := by
    simp only [List.mem_cons, List.not_mem_nil, or_false] at hr
    rcases hr with rfl | rfl | rfl | rfl | rfl | rfl | rfl | rfl | rfl <;> rfl
  exact ⟨none, hexec.trans (writeIgnored_of_live hs)⟩

/-- `W8 IN_BUF` at an implemented index is one memory write (R171). -/
theorem execW8InBuf_of_lt (hs : s.live) (hi : i.toNat < s.cfg.inCap) :
    execW8InBuf i w s =
      .next { s with inBuf := s.inBuf.write i.toNat (w.extractLsb' 0 8), rdata := none } :=
  hostStep_next_iff.mpr ⟨hs, (if_pos hi).symm⟩

/-- `W8 IN_BUF` at an index that no byte implements is ignored (R52). -/
theorem execW8InBuf_of_le (hs : s.live) (hi : s.cfg.inCap ≤ i.toNat) :
    execW8InBuf i w s = .next { s with rdata := none } :=
  hostStep_next_iff.mpr ⟨hs, (if_neg (Nat.not_lt.mpr hi)).symm⟩

/-- Settles O55: the memory write of `execW8InBuf_of_lt`, read at its index and elsewhere. -/
theorem inBufWriteSetsOneByte : Obligations.InBufWriteSetsOneByte :=
  fun _ _ _ hs hi => ⟨_, none, execW8InBuf_of_lt hs hi, Memory.read_write_same _ _ _,
    fun _ hk => Memory.read_write_other _ _ hk⟩

end Sys2Proof.Machine
end

section
/-! The host's reads of the buffer windows (R172, R173), and the reserved addresses (R52 to R54, R175). -/

namespace Sys2Proof.Machine

variable {s : State} {i : BitVec 17} {v : Byte}

/-! ### IN_BUF -/

/-- `R8 IN_BUF` returns a written byte (R172). -/
theorem execR8InBuf_of_written (hs : s.live) (hi : i.toNat < s.cfg.inCap) (hv : s.inBuf.read i.toNat = some v) :
    execR8InBuf i s = .next { s with rdata := some (v.setWidth 32) } := by
  refine hostStep_next_iff.mpr ⟨hs, ?_⟩
  simp only [State.clearRead_cfg, State.clearRead_inBuf, hi, hv, if_true]
  rfl

/-- `R8 IN_BUF` of a byte never written records `F_UNWRITTEN_READ` (R172, R210). -/
theorem execR8InBuf_of_unwritten (hs : s.live) (hi : i.toNat < s.cfg.inCap) (hv : s.inBuf.read i.toNat = none) :
    execR8InBuf i s = .next { s with fault := some (.unwrittenRead i.toNat), rdata := none } := by
  refine hostStep_next_iff.mpr ⟨hs, ?_⟩
  simp only [State.clearRead_cfg, State.clearRead_inBuf, hi, hv, if_true]
  rfl

/-- `R8 IN_BUF` at an index that no byte implements returns 0 (R52). -/
theorem execR8InBuf_of_le (hs : s.live) (hi : s.cfg.inCap ≤ i.toNat) :
    execR8InBuf i s = .next { s with rdata := some 0 } :=
  hostStep_next_iff.mpr ⟨hs, (if_neg (Nat.not_lt.mpr hi)).symm⟩

/-- Settles O56: an implemented byte is written or not. -/
theorem inBufReadReturnsByteOrFaults : Obligations.InBufReadReturnsByteOrFaults :=
  fun _ _ hs hi => ⟨fun _ => execR8InBuf_of_written hs hi, execR8InBuf_of_unwritten hs hi⟩

/-! ### PAY_BUF -/

/-- `R8 PAY_BUF` returns a valid byte (R173). -/
theorem execR8PayBuf_of_valid (hs : s.live) (hi : i.toNat < payCap) (hv : s.payByte i.toNat = some v) :
    execR8PayBuf i s = .next { s with rdata := some (v.setWidth 32) } := by
  rw [execR8PayBuf_of_lt hi, hostStep_of_live hs, State.clearRead_payByte, hv]
  rfl

/-- `R8 PAY_BUF` at an index that no byte implements returns 0 (R54). -/
theorem execR8PayBuf_of_le (hs : s.live) (hi : payCap ≤ i.toNat) :
    execR8PayBuf i s = .next { s with rdata := some 0 } :=
  hostStep_next_iff.mpr ⟨hs, (if_neg (Nat.not_lt.mpr hi)).symm⟩

/-- Settles O58: an implemented byte is valid or not. -/
theorem payBufReadReturnsByteOrFaults : Obligations.PayBufReadReturnsByteOrFaults := by
  unfold Obligations.PayBufReadReturnsByteOrFaults
  refine fun s i hs hi => ⟨fun p v hpay hv => ?_, fun hinvalid => ?_⟩
  · exact execR8PayBuf_of_valid hs hi (by simp [State.payByte, hpay, hv])
  · exact execR8PayBuf_of_invalid hs hi (State.payByte_eq_none_iff.mpr hinvalid)

/-! ### Reserved addresses -/

/-- A read of a reserved address returns 0 in a live state (R53). -/
theorem readsZero_of_live (hs : s.live) : readsZero s = .next { s with rdata := some 0 } :=
  hostStep_returns_of_live hs fun _ => 0

/-- Settles O59: the reserved operations are `readsZero` and `writeIgnored`; past the end of a buffer its own accesses
do the same. -/
theorem reservedAddressesReadZeroIgnoreWrites : Obligations.ReservedAddressesReadZeroIgnoreWrites := by
  unfold Obligations.ReservedAddressesReadZeroIgnoreWrites
  refine fun s hs => ⟨fun i k r hr => ?_, fun i k w r hr => ⟨none, ?_⟩, fun i hi => ?_, fun i hi => ?_⟩
  · have hexec : exec r s = readsZero s := by
      simp only [List.mem_cons, List.not_mem_nil, or_false] at hr
      rcases hr with rfl | rfl | rfl <;> rfl
    exact hexec.trans (readsZero_of_live hs)
  · have hexec : exec r s = writeIgnored s := by
      simp only [List.mem_cons, List.not_mem_nil, or_false] at hr
      rcases hr with rfl | rfl | rfl <;> rfl
    exact hexec.trans (writeIgnored_of_live hs)
  · exact ⟨execR8InBuf_of_le hs hi, fun _ => ⟨none, execW8InBuf_of_le hs hi⟩⟩
  · exact ⟨execR8PayBuf_of_le hs hi, fun _ => ⟨none, writeIgnored_of_live hs⟩⟩

end Sys2Proof.Machine
end

section
/-! When a step is possible (R213, R216, R230): every operation, reset and the idle step are taken exactly in a live
state. -/

namespace Sys2Proof.Machine

variable {s t : State} {i : Instr}

/-- A guarded step is possible exactly in a live state (R213). -/
theorem guarded_possible_iff : (∃ u, guarded s t = .next u) ↔ s.live := by
  simp only [guarded_next_iff, exists_and_left, exists_eq, and_true]

/-- Every operation goes to some state, guarded by the two marks (R160, R213). -/
theorem exec_eq_guarded (i : Instr) (s : State) : ∃ u, exec i s = guarded s u := by
  cases i with
  | w32Cmd w =>
    rw [exec_w32Cmd, decodeCommand]
    split_ifs
    · exact ⟨_, rfl⟩
    · exact ⟨_, rfl⟩
    · exact ⟨_, rfl⟩
  | _ => exact ⟨_, rfl⟩

/-- An operation is possible exactly in a live state (R213, R216). -/
theorem exec_possible_iff (i : Instr) (s : State) : (∃ t, exec i s = .next t) ↔ s.live := by
  obtain ⟨u, hu⟩ := exec_eq_guarded i s
  rw [hu]
  exact guarded_possible_iff

/-- An operation that was performed started in a live state. -/
theorem live_of_exec (h : exec i s = .next t) : s.live := (exec_possible_iff i s).mp ⟨t, h⟩

/-- A step is possible exactly in a live state: it is idle, a reset, or an operation (R213, R230). -/
theorem step_possible_iff (s : State) : (∃ t, step s = .next t) ↔ s.live := by
  unfold step
  split
  case h_1 => exact guarded_possible_iff
  case h_2 rest _ => exact guarded_possible_iff (s := s.setInputs rest)
  case h_3 e rest _ => exact exec_possible_iff (decode e) (s.setInputs rest)

/-- Settles O8: an operation and a step are each guarded by the two marks. -/
theorem stepPossibleIffNoMarkRecorded : Obligations.StepPossibleIffNoMarkRecorded :=
  fun s => ⟨fun i => exec_possible_iff i s, step_possible_iff s⟩

end Sys2Proof.Machine
end

section
/-! How a command ends (R110, R134, R200): every command commits one result, and a result that is an error leaves no
output valid (R209). -/

namespace Sys2Proof.Machine

variable {s t : State} {i : Instr}

/-- Every command commits the result of some decode; `CMD_RESERVED` commits the failure `CMD_ERROR` (R81, R110,
R134). -/
theorem exec_command_commits (hi : i.isCommand = true) (h : exec i s = .next t) :
    ∃ op r, t = s.clearRead.commit op r := by
  have hreserved (w : Word) (h : exec (.cmdReserved w) s = .next t) : ∃ op r, t = s.clearRead.commit op r :=
    ⟨w.extractLsb' 0 4, .error (.failed .cmdError), (guarded_next_iff.mp h).2⟩
  cases i with
  | decodeHeader | decodeMessage => exact ⟨_, _, (guarded_next_iff.mp h).2⟩
  | cmdReserved w => exact hreserved w h
  | w32Cmd w =>
    rw [exec_w32Cmd, decodeCommand] at h
    split_ifs at h
    · exact ⟨_, _, (guarded_next_iff.mp h).2⟩
    · exact ⟨_, _, (guarded_next_iff.mp h).2⟩
    · exact hreserved w h
  | _ => cases hi

/-- A command that ends with an error leaves a live state with no output valid (R209). -/
theorem outputs_none_of_failed_command (hi : i.isCommand = true) (h : exec i s = .next t) (hfault : t.fault = none)
    (hresult : t.result ≠ .ok) : t.live ∧ t.hdr = none ∧ t.pay = none := by
  have hs : s.live := live_of_exec h
  obtain ⟨op, r, rfl⟩ := exec_command_commits hi h
  obtain ⟨f, -, hr⟩ | ⟨code, -, hr⟩ | ⟨hd, p, -, hr⟩ := State.commit_cases (s := s.clearRead) op r
  · simp [hr] at hfault
  · rw [hr]
    exact ⟨hs, rfl, rfl⟩
  · simp [hr] at hresult

/-- Settles O27: after a failed command no output is valid, and O53 says what every gated read then does. -/
theorem failedCommandLeavesNoReadableOutput : Obligations.FailedCommandLeavesNoReadableOutput := by
  unfold Obligations.FailedCommandLeavesNoReadableOutput
  intro i s t hi h hfault hresult
  obtain ⟨ht, hhdr, hpay⟩ := outputs_none_of_failed_command hi h hfault hresult
  obtain ⟨hheader, hlen, hbyte⟩ := invalidOutputReadRaisesFault t ht
  obtain ⟨h0, h1, hframe, htag⟩ := hheader hhdr
  exact ⟨h0, h1, hframe, htag, hlen hpay, fun k hk => hbyte k hk (.inl hpay)⟩

end Sys2Proof.Machine
end

section
/-! The signature check gives `BAD_SIGNATURE` (R103, R203); the end check, and no other check of any operation, gives
`LENGTH_MISMATCH` (R132, R205). -/

namespace Sys2Proof.Machine

variable {s t : State} {i : Instr} {c : Config} {n : Nat} {m : Memory}

/-! ### BAD_SIGNATURE -/

/-- The signature check fails on the first two bytes alone, whatever stands after them (R103). -/
theorem headerCore_of_badSignature {b0 b1 : Byte} (hn : c.minBuf.bytes ≤ n) (h0 : m.read 0 = some b0)
    (h1 : m.read 1 = some b1) (hb : ¬ (b0 = sync0 ∧ b1 = sync1)) :
    headerCore c n m = .error (.failed .badSignature) :=
  headerCore_failed_iff.mpr (.inr ⟨hn, b0, b1, h0, h1, .inl ⟨not_and_or.mp hb, rfl⟩⟩)

/-- Settles O15: `headerCore_of_badSignature`, and both decodes fail as their header does. -/
theorem wrongSignatureIsBadSignature : Obligations.WrongSignatureIsBadSignature :=
  fun _ _ _ hs hn h0 h1 hb => exec_decodes_of_headerCore_failed hs (headerCore_of_badSignature hn h0 h1 hb)

/-! ### LENGTH_MISMATCH -/

/-- The header of a buffer that holds the whole frame (R104, R107). -/
theorem headerCore_of_frame {cls d lo hi a b : Byte} (hn : c.minBuf.bytes ≤ n)
    (hm : m.startsWith [sync0, sync1, cls, d, lo, hi]) (hend : frameEnd (u16le lo hi) ≤ n)
    (ha : m.read (6 + (u16le lo hi).toNat) = some a) (hb : m.read (7 + (u16le lo hi).toNat) = some b) :
    headerCore c n m = .ok ⟨sync0, sync1, cls, d, u16le lo hi, a, b⟩ :=
  headerCore_ok_iff.mpr ⟨hn, rfl, rfl, hm 0 _ rfl, hm 1 _ rfl, hm 2 _ rfl, hm 3 _ rfl,
    ⟨lo, hi, hm 4 _ rfl, hm 5 _ rfl, rfl⟩, hend, ha, hb⟩

/-- `DECODE_MESSAGE` fails with `LENGTH_MISMATCH` exactly by the end check: under `STRICT_END = 1`, past a header that
decodes, in a buffer that does not end with the frame (R132, R205). -/
theorem messageCore_lengthMismatch_iff :
    messageCore c n m = .error (.failed .lengthMismatch) ↔
      c.strictEnd = true ∧ ∃ h, headerCore c n m = .ok h ∧ n ≠ frameEnd h.len := by
  rw [messageCore_error_iff]
  constructor
  · rintro (hh | ⟨h, hh, ⟨hstrict, hn, -⟩ | ⟨-, hp⟩⟩)
    · simp [headerCore_failed_iff] at hh
    · exact ⟨hstrict, h, hh, hn⟩
    · obtain ⟨f, hf⟩ | ⟨p, hp'⟩ := payloadCore_cases m h.len
      · simp [hf] at hp
      · simp [hp'] at hp
  · rintro ⟨hstrict, h, hh, hn⟩
    exact .inr ⟨h, hh, .inl ⟨hstrict, hn, rfl⟩⟩

/-- What a command commits gives a new failing `RESULT` only as the failure of its decode (R110, R134). -/
theorem State.commit_result_eq {op : BitVec 4} {r : Except Stop (Header × Option (List Byte))} {code : ResultCode}
    (hcode : code ≠ .ok) (hs : s.result ≠ code) (h : (s.commit op r).result = code) :
    r = .error (.failed code) := by
  obtain ⟨f, -, hr⟩ | ⟨code', rfl, hr⟩ | ⟨hd, p, -, hr⟩ := State.commit_cases (s := s) op r
  · exact absurd (by simpa [hr] using h) hs
  · simpa [hr] using h
  · exact absurd (by simpa [hr] using h.symm) hcode

/-- A mapped result fails as the result it is mapped from. -/
theorem except_map_error_iff {ε α β : Type} {x : Except ε α} {f : α → β} {e : ε} :
    x.map f = .error e ↔ x = .error e := by
  cases x <;> simp [Except.map]

/-- `DECODE_HEADER` never turns `RESULT` into `LENGTH_MISMATCH` (R205). -/
theorem result_ne_lengthMismatch_of_decodeHeader (h : exec .decodeHeader s = .next t)
    (hs : s.result ≠ .lengthMismatch) : t.result ≠ .lengthMismatch := by
  intro ht
  obtain ⟨-, rfl⟩ := guarded_next_iff.mp h
  have hh := except_map_error_iff.mp (State.commit_result_eq (s := s.clearRead) (by decide) hs ht)
  simp [headerCore_failed_iff] at hh

/-- `CMD_RESERVED` leaves `CMD_ERROR` (R206). -/
theorem result_ne_lengthMismatch_of_cmdReserved {w : Word} (h : exec (.cmdReserved w) s = .next t) :
    t.result ≠ .lengthMismatch := by
  obtain ⟨-, rfl⟩ := guarded_next_iff.mp h
  simp

/-- `DECODE_MESSAGE` turns `RESULT` into `LENGTH_MISMATCH` only by its end check (R205). -/
theorem lengthMismatch_of_decodeMessage (h : exec .decodeMessage s = .next t) (hs : s.result ≠ .lengthMismatch)
    (ht : t.result = .lengthMismatch) :
    s.cfg.strictEnd = true ∧ ∃ hd, headerCore s.cfg s.bufLen s.inBuf = .ok hd ∧ s.bufLen ≠ frameEnd hd.len := by
  obtain ⟨-, rfl⟩ := guarded_next_iff.mp h
  have hmap := State.commit_result_eq (s := s.clearRead) (by decide) hs ht
  exact messageCore_lengthMismatch_iff.mp (except_map_error_iff.mp hmap)

/-- Only `DECODE_MESSAGE`, presented alone or written to `CMD`, turns `RESULT` into `LENGTH_MISMATCH` (R205). -/
theorem decodeMessage_of_lengthMismatch (h : exec i s = .next t) (hs : s.result ≠ .lengthMismatch)
    (ht : t.result = .lengthMismatch) :
    (i = .decodeMessage ∨ i = .w32Cmd 2) ∧ exec .decodeMessage s = .next t := by
  cases hi : i.isCommand with
  | false =>
    obtain ⟨hresult, -⟩ := outputsAreASnapshot i s t hi h
    exact absurd (hresult ▸ ht) hs
  | true =>
    cases i with
    | decodeMessage => exact ⟨.inl rfl, h⟩
    | decodeHeader => exact absurd ht (result_ne_lengthMismatch_of_decodeHeader h hs)
    | cmdReserved => exact absurd ht (result_ne_lengthMismatch_of_cmdReserved h)
    | w32Cmd w =>
      rw [exec_w32Cmd, decodeCommand] at h
      split_ifs at h with h1 h2
      · exact absurd ht (result_ne_lengthMismatch_of_decodeHeader h hs)
      · exact ⟨.inr (congrArg _ h2), h⟩
      · exact absurd ht (result_ne_lengthMismatch_of_cmdReserved h)
    | _ => cases hi

/-- Settles O19: the end check fails past a header that decodes, and no other check of any operation gives its
code. -/
theorem trailingBytesAreLengthMismatch : Obligations.TrailingBytesAreLengthMismatch := by
  unfold Obligations.TrailingBytesAreLengthMismatch
  constructor
  · intro s c d lo hi a b hs hn hstrict hm hend ha hb
    rw [← u16leIsLowPlus256High] at ha hb
    rw [← frameEnd_u16le] at hend
    have hh := headerCore_of_frame hn hm hend.le ha hb
    have hmismatch := messageCore_lengthMismatch_iff.mpr ⟨hstrict, _, hh, hend.ne'⟩
    exact ⟨none, exec_decodeMessage_of_error hs hmismatch⟩
  · intro i s t h hs ht
    obtain ⟨hi, hmessage⟩ := decodeMessage_of_lengthMismatch h hs ht
    obtain ⟨hstrict, hd, hh, hn⟩ := lengthMismatch_of_decodeMessage hmessage hs ht
    exact ⟨hstrict, hi, _, hd, exec_decodeHeader_of_ok (live_of_exec h) hh, rfl, rfl, hn⟩

end Sys2Proof.Machine
end

section
/-! The refusals (R212): which operation records which reason, and what it leaves alone. -/

namespace Sys2Proof

open Machine

/-- The refusal that an operation records under the parameters `c` (R163, R176, R212). -/
def Instr.refusal (c : Config) : Instr → Option RefusalReason
  | .badAccess _ _ _ _ => some .badAccess
  | .w32BufLen w => if c.inCap < w.toNat then some .lenOverCap else none
  | _ => none

theorem Instr.refusal_eq_badAccess_iff {c : Config} {i : Instr} :
    i.refusal c = some .badAccess ↔ ∃ d z a w, i = .badAccess d z a w := by
  cases i <;> simp [Instr.refusal]

theorem Instr.refusal_eq_lenOverCap_iff {c : Config} {i : Instr} :
    i.refusal c = some .lenOverCap ↔ ∃ w, i = .w32BufLen w ∧ c.inCap < w.toNat := by
  cases i <;> simp [Instr.refusal]

end Sys2Proof

namespace Sys2Proof.Machine

variable {s t : State} {i : Instr}

/-- No command and no read touches the refusal mark. -/
theorem Effect.refused_eq (h : Effect s i t) (hi : i.isCommand = true ∨ i.isRead = true) :
    t.refused = s.refused := by
  cases h with
  | finished | raised | returned | ignored | setBufLen | setTagArg | writeIn => simp
  | refused hc hr => simp [hc, hr] at hi

/-- The effect that records a refusal is the refusal itself: nothing else is written (R212). -/
theorem Effect.eq_refuse_of_refused (h : Effect s i t) (hs : s.refused = none) (ht : t.refused ≠ none) :
    ∃ r, t = s.refuse r := by
  cases h with
  | refused _ _ r => exact ⟨r, rfl⟩
  | finished | raised | returned | ignored | setBufLen | setTagArg | writeIn => simp [hs] at ht

/-- The refusal recorded after an operation is the one that R212 gives it. -/
theorem refused_of_exec (h : exec i s = .next t) : t.refused = i.refusal s.cfg := by
  have hs : s.refused = none := (live_of_exec h).2
  have heffect := Effect.of_exec h
  cases i with
  | badAccess => exact congrArg _ (guarded_next_iff.mp h).2
  | w32BufLen w =>
    obtain ⟨-, rfl⟩ := guarded_next_iff.mp h
    by_cases hw : s.cfg.inCap < w.toNat
    · simp [Instr.refusal, hw]
    · simp [Instr.refusal, hw, hs]
  | w8InBuf k w =>
    obtain ⟨-, rfl⟩ := guarded_next_iff.mp h
    by_cases hk : k.toNat < s.cfg.inCap
    · simp [Instr.refusal, hk, hs]
    · simp [Instr.refusal, hk, hs]
  | w32TagArg | w32Status | w32Hdr0 | w32Hdr1 | w32FrameLen | w32HdrTag | w32PayLen | w32Cfg | w32Cap | w8PayBuf
  | w8Rsv | w32Rsv | w32RsvHi =>
    obtain ⟨-, rfl⟩ := guarded_next_iff.mp h
    exact hs
  | decodeHeader | decodeMessage | cmdReserved | w32Cmd => exact (heffect.refused_eq (.inl rfl)).trans hs
  | _ => exact (heffect.refused_eq (.inr rfl)).trans hs

/-- Settles O41: `refused_of_exec` names the operation of each reason, and `Effect.eq_refuse_of_refused` is the
frame. -/
theorem refusalsAreThoseOfTheSpec : Obligations.RefusalsAreThoseOfTheSpec := by
  unfold Obligations.RefusalsAreThoseOfTheSpec
  intro i s t h
  refine ⟨?_, ?_, fun ht => ?_⟩
  · rw [refused_of_exec h]
    exact Instr.refusal_eq_badAccess_iff
  · rw [refused_of_exec h]
    exact Instr.refusal_eq_lenOverCap_iff
  · obtain ⟨r, rfl⟩ := (Effect.of_exec h).eq_refuse_of_refused (live_of_exec h).2 ht
    exact ⟨none, rfl⟩

end Sys2Proof.Machine
end

section
/-! The reset step (R44, R230). -/

namespace Sys2Proof.Machine

variable {s : State}

/-- With the reset signal as the next input, a step of a live state takes the input and resets the rest (R230). -/
theorem step_rst_of_live {rest : List HostInput} (hs : s.live) (hin : s.inputs = .rst :: rest) :
    step s = .next (s.setInputs rest).clearRead.afterReset := by
  have hstep : step s = resetStep (s.setInputs rest) := by simp only [step, hin]
  exact hstep.trans (hostStep_of_live (s := s.setInputs rest) hs State.afterReset)

/-- Settles O11: `step_rst_of_live` gives the state that a reset leaves, `step_possible_iff` says that a state with a
mark takes no step, and the first state of a run is `State.reset`. -/
theorem resetStepSetsResetValues : Obligations.ResetStepSetsResetValues := by
  unfold Obligations.ResetStepSetsResetValues
  refine ⟨fun s rest hin => ⟨fun hs => ?_, fun hs t ht => ?_⟩, ?_⟩
  · exact ⟨_, step_rst_of_live hs hin, rfl, rfl, Memory.read_empty, rfl, rfl, rfl, rfl, rfl, rfl, rfl, rfl⟩
  · exact hs ((step_possible_iff s).mp ⟨t, ht⟩)
  · exact ⟨rfl, Memory.read_empty, rfl, rfl, rfl, rfl, rfl⟩

end Sys2Proof.Machine
end

section
/-! The decoder and the encoder are inverse to each other (R80, R82, R83): the two directions for the registers, for the
buffer windows and for the commands, and the accesses that decode to `BAD_ACCESS` (R55). -/

namespace Sys2Proof

/-! ### Registers -/

/-- An aligned 32-bit read of the register region is decoded by its word index (R83 line 1). -/
theorem decode_lw_register (k : BitVec 15) : decode (.bus (lw (wordAddr .registers k))) = decodeRegRead k := by
  simp [decode, decodeBus, lw]

/-- An aligned 32-bit write of the register region is decoded by its word index (R83 line 1). -/
theorem decode_sw_register (k : BitVec 15) (w : Word) :
    decode (.bus (sw (wordAddr .registers k) w)) = decodeRegWrite k w := by
  simp [decode, decodeBus, sw]

/-- No register is read past the last one (R25). -/
theorem decodeRegRead_of_unlisted {k : BitVec 15} (hk : unlistedWord k = true) : decodeRegRead k = .r32Rsv k := by
  have hk : 11 ≤ k.toNat := by simpa [unlistedWord] using hk
  unfold decodeRegRead
  split
  case h_12 => rfl
  all_goals omega

/-- No register is written past the last one (R25). -/
theorem decodeRegWrite_of_unlisted {k : BitVec 15} (hk : unlistedWord k = true) (w : Word) :
    decodeRegWrite k w = .w32Rsv k w := by
  have hk : 11 ≤ k.toNat := by simpa [unlistedWord] using hk
  unfold decodeRegWrite
  split
  case h_12 => rfl
  all_goals omega

/-- The words of the listed registers are the first eleven (R25). -/
theorem exists_fin_of_listedWord {k : BitVec 15} (hk : unlistedWord k = false) : ∃ j : Fin 11, k = BitVec.ofNat 15 j := by
  have hk : k.toNat < 11 := by simpa [unlistedWord] using hk
  exact ⟨⟨k.toNat, hk⟩, by simp⟩

/-- What a register read decodes to is well formed and encodes to the read of that word (R25). -/
theorem decodeRegRead_wf_encode (k : BitVec 15) :
    (decodeRegRead k).wf = true ∧ encode (decodeRegRead k) = .bus (lw (wordAddr .registers k)) := by
  cases hk : unlistedWord k with
  | true =>
    rw [decodeRegRead_of_unlisted hk]
    exact ⟨hk, rfl⟩
  | false =>
    obtain ⟨j, rfl⟩ := exists_fin_of_listedWord hk
    fin_cases j <;> exact ⟨rfl, rfl⟩

/-- What a register write decodes to is well formed and encodes to the write of that word (R25). -/
theorem decodeRegWrite_wf_encode (k : BitVec 15) (w : Word) :
    (decodeRegWrite k w).wf = true ∧ encode (decodeRegWrite k w) = .bus (sw (wordAddr .registers k) w) := by
  cases hk : unlistedWord k with
  | true =>
    rw [decodeRegWrite_of_unlisted hk]
    exact ⟨hk, rfl⟩
  | false =>
    obtain ⟨j, rfl⟩ := exists_fin_of_listedWord hk
    fin_cases j <;> exact ⟨rfl, rfl⟩

/-! ### Decoding what was encoded -/

/-- An operation that is well formed carries no data on a read (R82). -/
theorem carried_of_carriedData {d : Dir} {w : Word} (h : carriedData d w = true) : carried d w = w := by
  cases d with
  | read =>
    obtain rfl : w = 0 := by simpa [carriedData] using h
    rfl
  | write => rfl

/-- An access that breaks the width rules decodes to itself (R55, R83). -/
theorem decode_encode_badAccess {d : Dir} {z : Size} {a : Addr} {w : Word}
    (h : (Instr.badAccess d z a w).wf = true) : decode (encode (.badAccess d z a w)) = .badAccess d z a w := by
  obtain ⟨hlegal, hdata⟩ : legalAccess z a = false ∧ carriedData d w = true := by simpa [Instr.wf] using h
  calc decode (encode (.badAccess d z a w))
      = .badAccess d z a (carried d w) := decodeBus_of_not_legal (op := ⟨d, z, a, w⟩) hlegal
    _ = .badAccess d z a w := by rw [carried_of_carriedData hdata]

/-- The reserved words are all but two (R80, R81). -/
theorem definedCommand_eq_false_iff {w : Word} : definedCommand w = false ↔ w ≠ 0x1 ∧ w ≠ 0x2 := by
  simp [definedCommand]

/-- Settles O1: each register stands at its word address, each byte of a window at its byte address, and the fields
of an address give back the index that it was built with. -/
theorem decodeOfEncodeIsIdentity : Obligations.DecodeOfEncodeIsIdentity := by
  unfold Obligations.DecodeOfEncodeIsIdentity
  intro i hi
  cases i with
  | decodeHeader | decodeMessage => rfl
  | cmdReserved w =>
    obtain ⟨h1, h2⟩ : w ≠ 0x1 ∧ w ≠ 0x2 := definedCommand_eq_false_iff.mp (by simpa [Instr.wf] using hi)
    exact Machine.decodeCommand_of_reserved h1 h2
  | w32Cmd w => exact decode_sw_register 0 w
  | w32Status w => exact decode_sw_register 1 w
  | w32BufLen w => exact decode_sw_register 2 w
  | w32Hdr0 w => exact decode_sw_register 3 w
  | w32Hdr1 w => exact decode_sw_register 4 w
  | w32FrameLen w => exact decode_sw_register 5 w
  | w32HdrTag w => exact decode_sw_register 6 w
  | w32PayLen w => exact decode_sw_register 7 w
  | w32TagArg w => exact decode_sw_register 8 w
  | w32Cfg w => exact decode_sw_register 9 w
  | w32Cap w => exact decode_sw_register 10 w
  | r32Cmd => exact decode_lw_register 0
  | r32Status => exact decode_lw_register 1
  | r32BufLen => exact decode_lw_register 2
  | r32Hdr0 => exact decode_lw_register 3
  | r32Hdr1 => exact decode_lw_register 4
  | r32FrameLen => exact decode_lw_register 5
  | r32HdrTag => exact decode_lw_register 6
  | r32PayLen => exact decode_lw_register 7
  | r32TagArg => exact decode_lw_register 8
  | r32Cfg => exact decode_lw_register 9
  | r32Cap => exact decode_lw_register 10
  | r32Rsv k => exact (decode_lw_register k).trans (decodeRegRead_of_unlisted hi)
  | w32Rsv k w => exact (decode_sw_register k w).trans (decodeRegWrite_of_unlisted hi w)
  | w8InBuf | r8InBuf | w8PayBuf | r8PayBuf | w8Rsv | r8Rsv => simp [encode, decode, decodeBus, sb, lb]
  | r32RsvHi | w32RsvHi => simp [encode, decode, decodeBus, sw, lw]
  | badAccess d z a w => exact decode_encode_badAccess hi

/-! ### Encoding what was decoded -/

/-- What a command word decodes to is well formed and encodes to the word (R80). -/
theorem decodeCommand_wf_encode (w : Word) : (decodeCommand w).wf = true ∧ encode (decodeCommand w) = .cmd w := by
  unfold decodeCommand
  split_ifs with h1 h2
  · exact ⟨rfl, congrArg _ h1.symm⟩
  · exact ⟨rfl, congrArg _ h2.symm⟩
  · exact ⟨by rw [Instr.wf, definedCommand_eq_false_iff.mpr ⟨h1, h2⟩, Bool.not_false], rfl⟩

/-- A legal access decodes to a well-formed operation that encodes to the access (R83). -/
theorem decodeBus_wf_encode_of_legal {op : BusOp} (h : legalAccess op.size op.addr = true) :
    (decodeBus op).wf = true ∧ encode (decodeBus op) = .bus op.canon := by
  obtain ⟨d, z, a, w⟩ := op
  cases z with
  | byte =>
    have ha : byteAddr (regionOf a) (byteIndex a) = a := byteAddr_byteIndex a
    cases hr : regionOf a with
    | registers => simp [legalAccess_byte, hr] at h
    | inBuf | payBuf | upper =>
      rw [hr] at ha
      cases d <;> simp [decodeBus, hr, encode, Instr.wf, lb, sb, ha, BusOp.canon, carried]
  | word =>
    obtain ⟨haligned, hregion⟩ : isAligned a = true ∧ (regionOf a = .registers ∨ regionOf a = .upper) := by
      simpa [legalAccess_word] using h
    have ha : wordAddr (regionOf a) (wordIndex a) = a := wordAddr_wordIndex haligned
    obtain hr | hr := hregion
    · rw [hr] at ha
      cases d with
      | read => simpa [decodeBus, hr, haligned, ha, lw, BusOp.canon, carried] using decodeRegRead_wf_encode (wordIndex a)
      | write => simpa [decodeBus, hr, haligned, ha, sw, BusOp.canon, carried] using decodeRegWrite_wf_encode (wordIndex a) w
    · rw [hr] at ha
      cases d <;> simp [decodeBus, hr, haligned, encode, Instr.wf, lw, sw, ha, BusOp.canon, carried]

/-- An access that breaks the width rules decodes to a well-formed operation that encodes to the access (R55, R83). -/
theorem decodeBus_wf_encode_of_not_legal {op : BusOp} (h : legalAccess op.size op.addr = false) :
    (decodeBus op).wf = true ∧ encode (decodeBus op) = .bus op.canon := by
  rw [decodeBus_of_not_legal h]
  refine ⟨?_, rfl⟩
  cases hd : op.dir <;> simp [Instr.wf, h, carriedData, carried]

/-- What a bus operation decodes to is well formed and encodes to the same operation (R82, R83). -/
theorem decodeBus_wf_encode (op : BusOp) : (decodeBus op).wf = true ∧ encode (decodeBus op) = .bus op.canon := by
  cases h : legalAccess op.size op.addr with
  | true => exact decodeBus_wf_encode_of_legal h
  | false => exact decodeBus_wf_encode_of_not_legal h

/-- Settles O2: `decodeCommand_wf_encode` and `decodeBus_wf_encode`. -/
theorem encodeOfDecodeIsTheOperation : Obligations.EncodeOfDecodeIsTheOperation :=
  ⟨decodeCommand_wf_encode, decodeBus_wf_encode⟩

/-! ### The width rules -/

/-- A bus operation decodes to `BAD_ACCESS` exactly when it breaks the width rules (R55, R83): such an operation is
well formed and encodes to the access that it was decoded from. -/
theorem decodeBus_badAccess_iff (op : BusOp) :
    (∃ d z a w, decodeBus op = .badAccess d z a w) ↔ legalAccess op.size op.addr = false := by
  constructor
  · rintro ⟨d, z, a, w, hop⟩
    obtain ⟨hwf, hencode⟩ := decodeBus_wf_encode op
    rw [hop] at hwf hencode
    obtain ⟨-, rfl, rfl, -⟩ : d = op.dir ∧ z = op.size ∧ a = op.addr ∧ w = carried op.dir op.wdata := by
      simpa [encode, BusOp.canon] using hencode
    obtain ⟨hlegal, -⟩ : legalAccess op.size op.addr = false ∧ _ := by simpa [Instr.wf] using hwf
    exact hlegal
  · exact fun h => ⟨_, _, _, _, decodeBus_of_not_legal h⟩

/-- Settles O4: `decodeBus_badAccess_iff`, with the legal accesses written out by the size. -/
theorem onlyWidthViolationsAreBadAccess : Obligations.OnlyWidthViolationsAreBadAccess := by
  unfold Obligations.OnlyWidthViolationsAreBadAccess
  intro op
  rw [decodeBus_badAccess_iff, ← Bool.not_eq_true, not_iff_not]
  cases op.size with
  | byte =>
    simp only [legalAccess, decide_eq_true_eq, reduceCtorEq, false_and, true_and, false_implies, and_true, false_or]
    omega
  | word =>
    simp only [legalAccess, Bool.and_eq_true, Bool.or_eq_true, beq_iff_eq, decide_eq_true_eq, reduceCtorEq, false_and,
      true_and, forall_const, false_or]
    omega

/-- Settles O5: each word is decoded. -/
theorem testVectorWordsDecode : Obligations.TestVectorWordsDecode :=
  ⟨rfl, rfl, rfl, rfl, rfl, rfl, rfl, rfl, rfl, rfl⟩

end Sys2Proof
end

section
/-! What one operation leaves alone: the parameters and the inputs (R7, R20), every input register but its own (R62),
everything but the fault when it raises one (R11), and everything but the read port when it is a read (R62). -/

namespace Sys2Proof.Machine

variable {s t : State} {i : Instr}

/-! ### One writer for each part -/

/-- No operation changes the parameters or what the host has still to present (R7, R20). -/
theorem Effect.cfg_inputs_eq (h : Effect s i t) : t.cfg = s.cfg ∧ t.inputs = s.inputs := by
  cases h <;> simp

/-- The one writer of `BUF_LEN` (R163). -/
theorem Effect.bufLen_writer (h : Effect s i t) (ht : t.bufLen ≠ s.bufLen) : ∃ w, i = .w32BufLen w := by
  cases h with
  | setBufLen w => exact ⟨w, rfl⟩
  | finished | raised | returned | ignored | refused | setTagArg | writeIn => simp at ht

/-- The one writer of `TAG_ARG` (R167). -/
theorem Effect.tagArg_writer (h : Effect s i t) (ht : t.tagArg ≠ s.tagArg) : ∃ w, i = .w32TagArg w := by
  cases h with
  | setTagArg w => exact ⟨w, rfl⟩
  | finished | raised | returned | ignored | refused | setBufLen | writeIn => simp at ht

/-- The one writer of a byte of `IN_BUF` (R171). -/
theorem Effect.inBuf_writer (h : Effect s i t) {k : Nat} (hk : t.inBuf.read k ≠ s.inBuf.read k) :
    ∃ j w, i = .w8InBuf j w ∧ j.toNat = k := by
  cases h with
  | writeIn j w =>
    refine ⟨j, w, rfl, not_imp_comm.mp (fun hjk => ?_) hk⟩
    exact Memory.read_write_other _ _ (Ne.symm hjk)
  | finished | raised | returned | ignored | refused | setBufLen | setTagArg => simp at hk

/-- Settles O39: each clause is the writer that `Effect` gives it. -/
theorem eachInputHasOneWriter : Obligations.EachInputHasOneWriter := by
  unfold Obligations.EachInputHasOneWriter
  intro i s t h
  have heffect := Effect.of_exec h
  obtain ⟨hcfg, hinputs⟩ := heffect.cfg_inputs_eq
  exact ⟨hcfg, hinputs, heffect.bufLen_writer, heffect.tagArg_writer, fun _ => heffect.inBuf_writer⟩

/-! ### An operation that raises a fault -/

/-- The effect that records a fault is the raise itself, of a command or a read (R11, R214). -/
theorem Effect.eq_raise_of_fault (h : Effect s i t) (hs : s.fault = none) (ht : t.fault ≠ none) :
    (i.isCommand = true ∨ i.isRead = true) ∧ ∃ f, t = s.raise f := by
  cases h with
  | raised hi f => exact ⟨hi, f, rfl⟩
  | finished | returned | ignored | refused | setBufLen | setTagArg | writeIn => simp [hs] at ht

/-- Settles O40: `Effect.eq_raise_of_fault`, and a raise writes the fault alone. -/
theorem faultingStepWritesNothingElse : Obligations.FaultingStepWritesNothingElse := by
  unfold Obligations.FaultingStepWritesNothingElse
  intro i s t h ht
  obtain ⟨-, f, rfl⟩ := (Effect.of_exec h).eq_raise_of_fault (live_of_exec h).1 ht
  rfl

/-! ### Reads -/

/-- No operation depends on what is on the read port (R21, R160). -/
theorem exec_clearRead (i : Instr) (s : State) : exec i s.clearRead = exec i s := by
  cases i with
  | w32Cmd w =>
    rw [exec_w32Cmd, exec_w32Cmd, decodeCommand]
    split_ifs <;> rfl
  | _ => rfl

/-- States that differ in the read port alone are left by an operation in one state. -/
theorem exec_eq_of_clearRead_eq (h : t.clearRead = s.clearRead) (i : Instr) : exec i t = exec i s := by
  rw [← exec_clearRead, h, exec_clearRead]

/-- A read raises a fault or returns a value, and does nothing else (R62, R160). -/
theorem Effect.read_cases (h : Effect s i t) (hi : i.isRead = true) :
    (∃ f, t = s.raise f) ∨ ∃ v, t = s.returns v := by
  cases h with
  | raised _ f => exact .inl ⟨f, rfl⟩
  | returned _ v => exact .inr ⟨v, rfl⟩
  | finished hc => simp [isRead_of_isCommand hc] at hi
  | ignored _ hr | refused _ hr => simp [hr] at hi
  | setBufLen | setTagArg | writeIn => cases hi

/-- Settles O38: a read raises or returns; after a returned value only the read port differs, on which a second read
does not depend. -/
theorem readsHaveNoSideEffects : Obligations.ReadsHaveNoSideEffects := by
  unfold Obligations.ReadsHaveNoSideEffects
  intro i s t hi h
  obtain ⟨f, rfl⟩ | ⟨v, rfl⟩ := (Effect.of_exec h).read_cases hi
  · exact ⟨rfl, by simp, by simp⟩
  · have hrepeat : exec i (s.clearRead.returns v) = exec i s := exec_eq_of_clearRead_eq rfl i
    exact ⟨rfl, fun _ => ⟨by simp, hrepeat.trans h⟩, by simp [(live_of_exec h).1]⟩

/-! ### Steps -/

/-- A step with an operation as the next input performs it (R20). -/
theorem step_of_inputs {e : Encoded} {rest : List HostInput} (h : s.inputs = .op e :: rest) :
    step s = exec (decode e) (s.setInputs rest) := by
  simp only [step, h]

/-- A table word that decodes to an operation is the operation of the next step (R82). -/
theorem step_withFetchWord {nbits w : Nat} (h : decodeTableWord nbits w = some i) :
    step (s.withFetchWord nbits w) = exec i s := by
  unfold decodeTableWord at h
  unfold State.withFetchWord
  cases htable : tableWord nbits w with
  | error => simp [htable] at h
  | ok e =>
    obtain rfl : decode e = i := by simpa [htable] using h
    rfl

/-- Settles O6: `step_of_inputs` and `step_withFetchWord`. -/
theorem stepRunsTheDecodedOperation : Obligations.StepRunsTheDecodedOperation :=
  ⟨fun _ _ _ => step_of_inputs, fun _ _ _ _ => step_withFetchWord⟩

/-- Everything a step can do: wait, reset, or perform the next operation (R20, R230, R232). -/
theorem step_cases (h : step s = .next t) :
    (s.inputs = [] ∧ t = s) ∨
      (∃ rest, s.inputs = .rst :: rest ∧ t = (s.setInputs rest).clearRead.afterReset) ∨
      ∃ e rest, s.inputs = .op e :: rest ∧ exec (decode e) (s.setInputs rest) = .next t := by
  have hs : s.live := (step_possible_iff s).mp ⟨t, h⟩
  match hin : s.inputs with
  | [] =>
    have hidle : idleStep s = .next t := by simpa only [step, hin] using h
    exact .inl ⟨rfl, (guarded_next_iff.mp hidle).2⟩
  | .rst :: rest =>
    have hreset : (s.setInputs rest).clearRead.afterReset = t := by simpa [step_rst_of_live hs hin] using h
    exact .inr (.inl ⟨rest, rfl, hreset.symm⟩)
  | .op e :: rest => exact .inr (.inr ⟨e, rest, rfl, step_of_inputs hin ▸ h⟩)

/-- Settles O7: each of the three things a step can do keeps the parameters, and only the wait takes no input. -/
theorem stepTakesOneInputOrWaits : Obligations.StepTakesOneInputOrWaits := by
  unfold Obligations.StepTakesOneInputOrWaits
  refine ⟨fun s t h => ?_, fun s hs hin => ?_⟩
  · obtain ⟨hin, rfl⟩ | ⟨rest, hin, rfl⟩ | ⟨e, rest, hin, h⟩ := step_cases h
    · simp [hin]
    · simp [hin]
    · obtain ⟨hcfg, hinputs⟩ := (Effect.of_exec h).cfg_inputs_eq
      exact ⟨hcfg, by simpa [hin] using hinputs⟩
  · simp only [step, hin]
    exact guarded_of_live hs s

end Sys2Proof.Machine
end

section
/-! How each command ends (R81, R110, R134): every command is one of three, and each of those ends in the state that
its decode gives it. -/

namespace Sys2Proof.Machine

variable {s t : State} {i : Instr} {c : Config} {n : Nat} {m : Memory}

/-- Every command is `DECODE_HEADER`, `DECODE_MESSAGE` or `CMD_RESERVED` (R80, R161). -/
theorem exec_command_eq (hi : i.isCommand = true) :
    (∀ s, exec i s = exec .decodeHeader s) ∨ (∀ s, exec i s = exec .decodeMessage s) ∨
      ∃ w, ∀ s, exec i s = exec (.cmdReserved w) s := by
  cases i with
  | decodeHeader => exact .inl fun _ => rfl
  | decodeMessage => exact .inr (.inl fun _ => rfl)
  | cmdReserved w => exact .inr (.inr ⟨w, fun _ => rfl⟩)
  | w32Cmd w =>
    simp only [exec_w32Cmd, decodeCommand]
    split_ifs
    · exact .inl fun _ => rfl
    · exact .inr (.inl fun _ => rfl)
    · exact .inr (.inr ⟨w, fun _ => rfl⟩)
  | _ => cases hi

/-- The ways `DECODE_HEADER` ends (R110). -/
theorem exec_decodeHeader_cases (h : exec .decodeHeader s = .next t) :
    (∃ f, headerCore s.cfg s.bufLen s.inBuf = .error (.raised f) ∧ t = s.clearRead.raise f) ∨
      (∃ code, headerCore s.cfg s.bufLen s.inBuf = .error (.failed code) ∧
        t = s.clearRead.finish 1 code none none) ∨
      ∃ hd, headerCore s.cfg s.bufLen s.inBuf = .ok hd ∧ t = s.clearRead.finish 1 .ok (some hd) none := by
  have hs := live_of_exec h
  match hh : headerCore s.cfg s.bufLen s.inBuf with
  | .error (.raised f) =>
    rw [exec_decodeHeader_of_error hs hh] at h
    exact .inl ⟨f, rfl, (Host.Outcome.next.inj h).symm⟩
  | .error (.failed code) =>
    rw [exec_decodeHeader_of_error hs hh] at h
    exact .inr (.inl ⟨code, rfl, (Host.Outcome.next.inj h).symm⟩)
  | .ok hd =>
    rw [exec_decodeHeader_of_ok hs hh] at h
    exact .inr (.inr ⟨hd, rfl, (Host.Outcome.next.inj h).symm⟩)

/-- The ways `DECODE_MESSAGE` ends (R134). -/
theorem exec_decodeMessage_cases (h : exec .decodeMessage s = .next t) :
    (∃ f, messageCore s.cfg s.bufLen s.inBuf = .error (.raised f) ∧ t = s.clearRead.raise f) ∨
      (∃ code, messageCore s.cfg s.bufLen s.inBuf = .error (.failed code) ∧
        t = s.clearRead.finish 2 code none none) ∨
      ∃ hd p, messageCore s.cfg s.bufLen s.inBuf = .ok (hd, p) ∧
        t = s.clearRead.finish 2 .ok (some hd) (some p) := by
  have hs := live_of_exec h
  match hm : messageCore s.cfg s.bufLen s.inBuf with
  | .error (.raised f) =>
    rw [exec_decodeMessage_of_error hs hm] at h
    exact .inl ⟨f, rfl, (Host.Outcome.next.inj h).symm⟩
  | .error (.failed code) =>
    rw [exec_decodeMessage_of_error hs hm] at h
    exact .inr (.inl ⟨code, rfl, (Host.Outcome.next.inj h).symm⟩)
  | .ok (hd, p) =>
    rw [exec_decodeMessage_of_ok hs hm] at h
    exact .inr (.inr ⟨hd, p, rfl, (Host.Outcome.next.inj h).symm⟩)

/-- `CMD_RESERVED` ends in one way (R81). -/
theorem eq_finish_of_cmdReserved {w : Word} (h : exec (.cmdReserved w) s = .next t) :
    t = s.clearRead.finish (w.extractLsb' 0 4) .cmdError none none :=
  (guarded_next_iff.mp h).2

/-- A result code with which a command can fail: no decode answers `OK` or `NONE` so (R31). -/
def ResultCode.isFailure : ResultCode → Bool
  | .none | .ok => false
  | .headerTooSmall | .badSignature | .bufferTooShort | .lengthMismatch | .cmdError => true

/-- `NONE` and `OK` are the codes of no failure (R31). -/
theorem ResultCode.isFailure_iff (code : ResultCode) : code.isFailure = true ↔ code ≠ .none ∧ code ≠ .ok := by
  cases code <;> decide

/-- The codes with which `HeaderCore` fails (R202 to R204). -/
theorem headerCore_failed_code {code : ResultCode} (h : headerCore c n m = .error (.failed code)) :
    code.isFailure = true ∧ code ≠ .lengthMismatch := by
  obtain ⟨-, rfl⟩ | ⟨-, s0, s1, -, -, ⟨-, rfl⟩ | ⟨-, -, cls, d, lo, hi, -, -, -, -, -, rfl⟩⟩ :=
    headerCore_failed_iff.mp h <;> decide

/-- The codes with which `DECODE_MESSAGE` fails: those of the header, and `LENGTH_MISMATCH` under `STRICT_END = 1`
(R131, R205). -/
theorem messageCore_failed_code {code : ResultCode} (h : messageCore c n m = .error (.failed code)) :
    code.isFailure = true ∧ (code = .lengthMismatch → c.strictEnd = true) := by
  obtain hh | ⟨hd, -, ⟨hstrict, -, he⟩ | ⟨-, hp⟩⟩ := messageCore_error_iff.mp h
  · obtain ⟨hfail, hne⟩ := headerCore_failed_code hh
    exact ⟨hfail, fun hcode => absurd hcode hne⟩
  · cases he
    exact ⟨rfl, fun _ => hstrict⟩
  · obtain ⟨f, hf⟩ | ⟨p, hok⟩ := payloadCore_cases m hd.len
    · simp [hf] at hp
    · simp [hok] at hp

/-- Settles O26: past a fault, each command ends with a failure and no output or, for the two decodes, with `OK` and
its outputs. -/
theorem commandSetsStatus : Obligations.CommandSetsStatus := by
  unfold Obligations.CommandSetsStatus
  intro s t w h hfault
  rw [exec_w32Cmd, decodeCommand] at h
  split_ifs at h with h1 h2
  · subst h1
    obtain ⟨f, -, rfl⟩ | ⟨code, hh, rfl⟩ | ⟨hd, -, rfl⟩ := exec_decodeHeader_cases h
    · simp at hfault
    · obtain ⟨hnone, hok⟩ := code.isFailure_iff.mp (headerCore_failed_code hh).1
      simp [hnone, hok]
    · simp
  · subst h2
    obtain ⟨f, -, rfl⟩ | ⟨code, hm, rfl⟩ | ⟨hd, p, -, rfl⟩ := exec_decodeMessage_cases h
    · simp at hfault
    · obtain ⟨hnone, hok⟩ := code.isFailure_iff.mp (messageCore_failed_code hm).1
      simp [hnone, hok]
    · simp
  · obtain rfl := eq_finish_of_cmdReserved h
    simp

/-- Settles O33: under `STRICT_END = 1` a message decodes only in a buffer that ends with its frame, so the payload's
`L` bytes are those from offset 6 to `buf_len - 2`. -/
theorem strictEndMakesBothSlicingRulesAgree : Obligations.StrictEndMakesBothSlicingRulesAgree := by
  unfold Obligations.StrictEndMakesBothSlicingRulesAgree
  intro s t hstrict h hfault hresult
  obtain ⟨f, -, rfl⟩ | ⟨code, hm, rfl⟩ | ⟨hd, p, hm, rfl⟩ := exec_decodeMessage_cases h
  · simp at hfault
  · exact absurd hresult (code.isFailure_iff.mp (messageCore_failed_code hm).1).2
  · obtain ⟨-, hend, hp⟩ := messageCore_ok_iff.mp hm
    obtain ⟨hlen, hbytes⟩ := readRun_ok_iff.mp hp
    have hn : s.bufLen = 8 + hd.len.toNat := by simpa [hstrict, frameEnd] using hend
    refine ⟨hd, p, rfl, rfl, hn, by omega, fun k v => ⟨fun hk => ?_, fun ⟨hk, hv⟩ => ?_⟩⟩
    · obtain ⟨hlt, -⟩ := List.getElem?_eq_some_iff.mp hk
      exact ⟨by omega, hbytes k v hk⟩
    · have hk' : p[k]? = some p[k] := List.getElem?_eq_getElem (by omega)
      rw [hk', ← hv, ← hbytes k _ hk']

end Sys2Proof.Machine
end

section
/-! The invariant (10_state.md R40): reset establishes it, and each operation keeps it. An operation that is no command
touches at most one part that the invariant speaks of; a command ends in one of the ways of the section before. -/

namespace Sys2Proof.Machine

variable {s t : State} {i : Instr}

/-- The invariant of a state whose outputs are those of reset (R44). -/
theorem State.inv_afterReset (hcfg : s.cfg.wf) (hmark : s.fault = none ∨ s.refused = none) : s.afterReset.Inv where
  params := hcfg
  bufLen_le := Nat.zero_le _
  inBuf_wf := Memory.empty_wf
  inBuf_cap := by simp
  hdr_iff := by simp
  pay_iff := by simp
  sync := by simp
  pay_len := by simp
  result_none := by simp
  result_ok := by simp
  result_mismatch := by simp
  one_mark := hmark

/-- The reset state meets the invariant under parameters in their domains (R7, R44). -/
theorem State.inv_resetOf {c : Config} (hc : c.wf) : (State.resetOf c).Inv :=
  State.inv_afterReset (s := State.resetOf c) hc (.inl rfl)

/-- Settles O10: `State.inv_resetOf`, at the default parameters too. -/
theorem resetStateMeetsInvariant : Obligations.ResetStateMeetsInvariant :=
  ⟨fun _ => State.inv_resetOf, rfl, State.inv_resetOf (by decide)⟩

/-! ### Operations that are no command -/

theorem State.Inv.clearRead (h : s.Inv) : s.clearRead.Inv := { h with }

theorem State.Inv.setInputs (h : s.Inv) (l : List HostInput) : (s.setInputs l).Inv := { h with }

/-- A raise in a state with no refusal leaves one mark (R213). -/
theorem State.Inv.raise (h : s.Inv) (hs : s.refused = none) (f : ModelFault) : (s.raise f).Inv :=
  { h with one_mark := .inr hs }

/-- An operation that is no command keeps the invariant: it writes at most one input register, within `IN_CAP`, or
one mark. -/
theorem State.Inv.of_effect (h : s.Inv) (hs : s.live) (he : Effect s i t) (hi : i.isCommand = false) : t.Inv := by
  cases he with
  | finished hc => simp [hc] at hi
  | raised _ f => exact h.raise hs.2 f
  | returned _ v => exact { h with }
  | ignored => exact h
  | refused _ _ r => exact { h with one_mark := .inl hs.1 }
  | setBufLen w hw => exact { h with bufLen_le := hw }
  | setTagArg w => exact { h with }
  | writeIn k w hk =>
    exact { h with inBuf_wf := Memory.write_wf h.inBuf_wf _ _, inBuf_cap := Memory.write_below h.inBuf_cap hk _ }

/-! ### Commands -/

/-- A failed command leaves no output valid (R40), and the code that its opcode can give (R31). -/
theorem State.Inv.finish_failed (h : s.Inv) {op : BitVec 4} {code : ResultCode} (hcode : code.isFailure = true)
    (hmismatch : code = .lengthMismatch → op = 2 ∧ s.cfg.strictEnd = true) : (s.finish op code none none).Inv := by
  obtain ⟨hnone, hok⟩ := code.isFailure_iff.mp hcode
  exact { h with
    hdr_iff := by simp [hok]
    pay_iff := by simp [hok]
    sync := by simp
    pay_len := by simp
    result_none := fun hr => absurd hr hnone
    result_ok := fun hr => absurd hr hok
    result_mismatch := hmismatch }

/-- `DECODE_HEADER` publishes a header with the sync bytes and no payload (R32, R40, R110). -/
theorem State.Inv.finish_header (h : s.Inv) {hd : Header} (hh : headerCore s.cfg s.bufLen s.inBuf = .ok hd) :
    (s.finish 1 .ok (some hd) none).Inv := by
  obtain ⟨-, h0, h1, -⟩ := headerCore_ok_iff.mp hh
  exact { h with
    hdr_iff := by simp
    pay_iff := by simp
    sync := by rintro _ ⟨⟩; exact ⟨h0, h1⟩
    pay_len := by simp
    result_none := by simp
    result_ok := by simp
    result_mismatch := by simp }

/-- `DECODE_MESSAGE` publishes a header with the sync bytes and a payload of its length (R32, R38, R40, R134). -/
theorem State.Inv.finish_message (h : s.Inv) {hd : Header} {p : List Byte}
    (hm : messageCore s.cfg s.bufLen s.inBuf = .ok (hd, p)) : (s.finish 2 .ok (some hd) (some p)).Inv := by
  obtain ⟨hh, -, hp⟩ := messageCore_ok_iff.mp hm
  obtain ⟨-, h0, h1, -⟩ := headerCore_ok_iff.mp hh
  obtain ⟨hlen, -⟩ := readRun_ok_iff.mp hp
  exact { h with
    hdr_iff := by simp
    pay_iff := by simp
    sync := by rintro _ ⟨⟩; exact ⟨h0, h1⟩
    pay_len := by rintro _ _ ⟨⟩ ⟨⟩; exact hlen
    result_none := by simp
    result_ok := by simp
    result_mismatch := by simp }

/-- `DECODE_HEADER` keeps the invariant. -/
theorem State.Inv.decodeHeader (h : s.Inv) (ht : exec .decodeHeader s = .next t) : t.Inv := by
  have hs := live_of_exec ht
  obtain ⟨f, -, rfl⟩ | ⟨code, hh, rfl⟩ | ⟨hd, hh, rfl⟩ := exec_decodeHeader_cases ht
  · exact h.clearRead.raise hs.2 f
  · obtain ⟨hcode, hne⟩ := headerCore_failed_code hh
    exact h.clearRead.finish_failed hcode fun he => absurd he hne
  · exact h.clearRead.finish_header hh

/-- `DECODE_MESSAGE` keeps the invariant. -/
theorem State.Inv.decodeMessage (h : s.Inv) (ht : exec .decodeMessage s = .next t) : t.Inv := by
  have hs := live_of_exec ht
  obtain ⟨f, -, rfl⟩ | ⟨code, hm, rfl⟩ | ⟨hd, p, hm, rfl⟩ := exec_decodeMessage_cases ht
  · exact h.clearRead.raise hs.2 f
  · obtain ⟨hcode, hstrict⟩ := messageCore_failed_code hm
    exact h.clearRead.finish_failed hcode fun he => ⟨rfl, hstrict he⟩
  · exact h.clearRead.finish_message hm

/-- `CMD_RESERVED` keeps the invariant. -/
theorem State.Inv.cmdReserved (h : s.Inv) {w : Word} (ht : exec (.cmdReserved w) s = .next t) : t.Inv := by
  obtain rfl := eq_finish_of_cmdReserved ht
  exact h.clearRead.finish_failed rfl nofun

/-- Every operation keeps the invariant. -/
theorem State.Inv.exec (h : s.Inv) (ht : exec i s = .next t) : t.Inv := by
  cases hi : i.isCommand with
  | false => exact h.clearRead.of_effect (live_of_exec ht) (Effect.of_exec ht) hi
  | true =>
    obtain heq | heq | ⟨w, heq⟩ := exec_command_eq hi
    · exact h.decodeHeader (heq s ▸ ht)
    · exact h.decodeMessage (heq s ▸ ht)
    · exact h.cmdReserved (heq s ▸ ht)

/-- Settles O9: a step waits, resets, or performs an operation, and each keeps the invariant. -/
theorem stepKeepsInvariant : Obligations.StepKeepsInvariant := by
  unfold Obligations.StepKeepsInvariant
  intro s t h hstep
  obtain ⟨-, rfl⟩ | ⟨rest, -, rfl⟩ | ⟨e, rest, -, ht⟩ := step_cases hstep
  · exact h
  · exact State.inv_afterReset h.params h.one_mark
  · exact (h.setInputs rest).exec ht

end Sys2Proof.Machine
end

section
/-! A buffer that holds a frame (R71, R104, R107, R133): what both decodes answer on it, and what a buffer that is
written throughout gives (R207). -/

namespace Sys2Proof.Machine

variable {s : State} {c : Config} {n : Nat} {m : Memory}

/-- A memory starts with two lists of bytes one after the other. -/
theorem Memory.startsWith_append {xs ys : List Byte} :
    m.startsWith (xs ++ ys) ↔ m.startsWith xs ∧ ∀ k v, ys[k]? = some v → m.read (xs.length + k) = some v := by
  constructor
  · refine fun h => ⟨fun k v hk => h k v ?_, fun k v hk => h _ v ?_⟩
    · obtain ⟨hlt, -⟩ := List.getElem?_eq_some_iff.mp hk
      rw [List.getElem?_append_left hlt, hk]
    · rw [List.getElem?_append_right (by omega), Nat.add_sub_cancel_left, hk]
  · rintro ⟨hx, hy⟩ k v hk
    by_cases hlt : k < xs.length
    · exact hx k v (by rwa [List.getElem?_append_left hlt] at hk)
    · rw [List.getElem?_append_right (by omega)] at hk
      simpa [Nat.add_sub_cancel' (Nat.le_of_not_lt hlt)] using hy _ v hk

/-! ### The header -/

/-- Settles O17: `headerCore_of_frame`, with the length bytes side by side. -/
theorem decodeHeaderPublishesHeader : Obligations.DecodeHeaderPublishesHeader := by
  unfold Obligations.DecodeHeaderPublishesHeader
  intro s c d lo hi a b hs hn hm hend ha hb
  rw [← u16leIsLowPlus256High] at ha hb
  rw [← frameEnd_u16le] at hend
  have hh := headerCore_of_frame hn hm hend ha hb
  rw [u16le_eq_append] at hh
  exact ⟨none, exec_decodeHeader_of_ok hs hh⟩

/-! ### The message -/

/-- The message of a buffer that holds the whole frame and ends with it under `STRICT_END = 1` (R132, R133). -/
theorem messageCore_of_frame {cls d lo hi a b : Byte} {p : List Byte} (hn : c.minBuf.bytes ≤ n)
    (hm : m.startsWith ([sync0, sync1, cls, d, lo, hi] ++ p ++ [a, b])) (hlen : p.length = (u16le lo hi).toNat)
    (hend : 8 + p.length ≤ n) (hstrict : c.strictEnd = true → n = 8 + p.length) :
    messageCore c n m = .ok (⟨sync0, sync1, cls, d, u16le lo hi, a, b⟩, p) := by
  obtain ⟨hfront, hck⟩ := Memory.startsWith_append.mp hm
  obtain ⟨hfields, hp⟩ := Memory.startsWith_append.mp hfront
  have hck_at (k : Nat) : ([sync0, sync1, cls, d, lo, hi] ++ p).length + k = 6 + k + (u16le lo hi).toNat := by
    simp only [List.length_append, List.length_cons, List.length_nil]
    omega
  simp only [hck_at] at hck
  have ha := hck 0 a rfl
  have hb := hck 1 b rfl
  rw [hlen] at hend hstrict
  exact messageCore_ok_iff.mpr ⟨headerCore_of_frame hn hfields hend ha hb, fun ⟨hs, hne⟩ => hne (hstrict hs),
    readRun_ok_iff.mpr ⟨hlen, hp⟩⟩

/-- Settles O18: `messageCore_of_frame`, with the length bytes side by side. -/
theorem decodeMessagePublishesPayload : Obligations.DecodeMessagePublishesPayload := by
  unfold Obligations.DecodeMessagePublishesPayload
  intro s c d lo hi a b p hs hn hm hlen hend hstrict
  rw [← u16leIsLowPlus256High] at hlen
  have hmsg := messageCore_of_frame hn hm hlen hend hstrict
  rw [u16le_eq_append] at hmsg
  exact ⟨none, exec_decodeMessage_of_ok hs hmsg⟩

/-! ### The round trip -/

/-- The length bytes of a frame are unpacked to its payload's length (R71, R101). -/
theorem u16le_ofNat {k : Nat} (hk : k ≤ 65535) :
    u16le (BitVec.ofNat 8 (k % 256)) (BitVec.ofNat 8 (k / 256)) = BitVec.ofNat 16 k := by
  rw [← BitVec.toNat_inj, u16leIsLowPlus256High]
  simp only [BitVec.toNat_ofNat]
  omega

/-- A buffer that holds exactly a frame decodes to what the frame was built from (R111, R137). -/
theorem messageCore_of_frameBytes {cls d a b : Byte} {p : List Byte} (hp : p.length ≤ 65535)
    (hm : m.startsWith (frameBytes cls d p a b)) (hn : c.minBuf.bytes ≤ 8 + p.length) :
    messageCore c (8 + p.length) m = .ok (⟨sync0, sync1, cls, d, BitVec.ofNat 16 p.length, a, b⟩, p) := by
  have hlen : p.length = (BitVec.ofNat 16 p.length).toNat := by
    rw [BitVec.toNat_ofNat, Nat.mod_eq_of_lt (by omega)]
  rw [← u16le_ofNat hp] at hlen ⊢
  exact messageCore_of_frame hn hm hlen (Nat.le_refl _) fun _ => rfl

/-- Settles O34: `messageCore_of_frameBytes`, whose header is that of `DECODE_HEADER` too. -/
theorem frameRoundTrip : Obligations.FrameRoundTrip := by
  unfold Obligations.FrameRoundTrip
  intro s c d a b p hs hp hm hlen hn
  have hmsg := messageCore_of_frameBytes (c := s.cfg) hp hm (hlen ▸ hn)
  rw [← hlen] at hmsg
  obtain ⟨hh, -, -⟩ := messageCore_ok_iff.mp hmsg
  have hheader := exec_decodeHeader_of_ok hs hh
  have hmessage := exec_decodeMessage_of_ok hs hmsg
  refine ⟨_, rfl, fun i hi => ⟨none, ?_⟩, fun i hi => ⟨none, ?_⟩⟩
  · obtain rfl | rfl := hi
    · exact hheader
    · exact (exec_w32Cmd 0x1 s).trans hheader
  · obtain rfl | rfl := hi
    · exact hmessage
    · exact (exec_w32Cmd 0x2 s).trans hmessage

/-! ### The order of the checks -/

/-- `MIN_BUF` leaves room for the first six bytes of a frame, and for its checksum (R7). -/
theorem eight_le_minBuf (b : MinBuf) : 8 ≤ b.bytes := by
  cases b <;> decide

/-- Six written bytes are the first six bytes. -/
theorem startsWith_of_read_six {byte : Nat → Byte} (h : ∀ k, k < 6 → m.read k = some (byte k)) :
    m.startsWith [byte 0, byte 1, byte 2, byte 3, byte 4, byte 5] := by
  intro k v hk
  obtain ⟨hlt, rfl⟩ := List.getElem?_eq_some_iff.mp hk
  have hk6 : k < 6 := hlt
  rw [h k hk6]
  interval_cases k <;> rfl

/-- A header that fails with a code gives both decodes that `RESULT`, and no fault (R110, R131). -/
theorem result_of_headerCore_failed {code : ResultCode} (hs : s.live)
    (hh : headerCore s.cfg s.bufLen s.inBuf = .error (.failed code)) :
    (∃ t, exec .decodeHeader s = .next t ∧ t.fault = none ∧ t.lastOp = 1 ∧ t.result = code) ∧
    (∃ t, exec .decodeMessage s = .next t ∧ t.fault = none ∧ t.lastOp = 2 ∧ t.result = code) := by
  obtain ⟨⟨d, hheader⟩, d', hmessage⟩ := exec_decodes_of_headerCore_failed hs hh
  exact ⟨⟨_, hheader, hs.1, rfl, rfl⟩, _, hmessage, hs.1, rfl, rfl⟩

/-- Past a header that decodes, on written payload bytes, the end check alone gives the `RESULT` (R132, R133). -/
theorem result_of_headerCore_ok {h : Header} (hs : s.live) (hh : headerCore s.cfg s.bufLen s.inBuf = .ok h)
    (hw : ∀ k, k < h.len.toNat → s.inBuf.read (6 + k) ≠ none) :
    (∃ t, exec .decodeHeader s = .next t ∧ t.fault = none ∧ t.lastOp = 1 ∧ t.result = .ok) ∧
    (∃ t, exec .decodeMessage s = .next t ∧ t.fault = none ∧ t.lastOp = 2 ∧
      t.result = if s.cfg.strictEnd = true ∧ s.bufLen ≠ frameEnd h.len then .lengthMismatch else .ok) := by
  refine ⟨⟨_, exec_decodeHeader_of_ok hs hh, hs.1, rfl, rfl⟩, ?_⟩
  split_ifs with hend
  · have hm := messageCore_lengthMismatch_iff.mpr ⟨hend.1, h, hh, hend.2⟩
    exact ⟨_, exec_decodeMessage_of_error hs hm, hs.1, rfl, rfl⟩
  · cases hp : payloadCore s.inBuf h.len with
    | error e =>
      obtain ⟨k, hk, -, hnone, -⟩ := readRun_error hp
      exact absurd hnone (hw k hk)
    | ok p => exact ⟨_, exec_decodeMessage_of_ok hs (messageCore_ok_iff.mpr ⟨hh, hend, hp⟩), hs.1, rfl, rfl⟩

/-- Settles O20: the checks in their order, each with the header decode that it ends. -/
theorem firstFailingCheckGivesTheResult : Obligations.FirstFailingCheckGivesTheResult := by
  unfold Obligations.FirstFailingCheckGivesTheResult
  intro s byte len hs hw hlen
  by_cases hsmall : s.bufLen < s.cfg.minBuf.bytes
  · simp only [if_pos hsmall]
    exact result_of_headerCore_failed hs (headerCore_of_small hsmall)
  have hn : s.cfg.minBuf.bytes ≤ s.bufLen := Nat.le_of_not_lt hsmall
  have hn8 : 8 ≤ s.bufLen := (eight_le_minBuf _).trans hn
  simp only [if_neg hsmall]
  by_cases hsign : byte 0 ≠ 0xB5 ∨ byte 1 ≠ 0x62
  · simp only [if_pos hsign]
    exact result_of_headerCore_failed hs
      (headerCore_of_badSignature hn (hw 0 (by omega)) (hw 1 (by omega)) (not_and_or.mpr hsign))
  simp only [if_neg hsign]
  obtain ⟨h0, h1⟩ : byte 0 = sync0 ∧ byte 1 = sync1 := by simpa [sync0, sync1] using hsign
  have hfields : s.inBuf.startsWith [sync0, sync1, byte 2, byte 3, byte 4, byte 5] := by
    rw [← h0, ← h1]
    exact startsWith_of_read_six fun k hk => hw k (by omega)
  rw [← u16leIsLowPlus256High] at hlen
  subst hlen
  by_cases hshort : s.bufLen < frameEnd (u16le (byte 4) (byte 5))
  · simp only [if_pos (show s.bufLen < 8 + (u16le (byte 4) (byte 5)).toNat from hshort)]
    exact result_of_headerCore_failed hs (headerCore_of_truncated hn hfields hshort)
  simp only [if_neg (show ¬ s.bufLen < 8 + (u16le (byte 4) (byte 5)).toNat from hshort)]
  have hend := Nat.le_of_not_lt hshort
  unfold frameEnd at hend
  refine result_of_headerCore_ok hs
    (headerCore_of_frame hn hfields hend (hw _ (by omega)) (hw _ (by omega))) fun k hk => ?_
  simp only at hk
  rw [hw _ (by omega)]
  exact Option.some_ne_none _

end Sys2Proof.Machine
end

section
/-! Bytes never written (R109, R133, R210): where the decodes raise `F_UNWRITTEN_INPUT`, and the faults of every other
operation (R172, R211). -/

namespace Sys2Proof.Machine

variable {s t : State} {i : Instr} {c : Config} {n : Nat} {m : Memory}

/-! ### The header -/

/-- Six bytes that were read are written. -/
theorem read_ne_none_of_fields {b0 b1 b2 b3 b4 b5 : Byte} (h0 : m.read 0 = some b0) (h1 : m.read 1 = some b1)
    (h2 : m.read 2 = some b2) (h3 : m.read 3 = some b3) (h4 : m.read 4 = some b4) (h5 : m.read 5 = some b5) :
    ∀ j, j < 6 → m.read j ≠ none := by
  intro j hj
  interval_cases j <;> simp [h0, h1, h2, h3, h4, h5]

/-- `HeaderCore` raises a fault at one of the first six bytes, the first of them never written, or past the bounds check
at a checksum byte (R109). -/
theorem headerCore_raised {f : ModelFault} (h : headerCore c n m = .error (.raised f)) :
    c.minBuf.bytes ≤ n ∧ ∃ k, f = .unwrittenInput k ∧ m.read k = none ∧
      (k < 6 ∧ (∀ j, j < k → m.read j ≠ none) ∨
        (∀ j, j < 6 → m.read j ≠ none) ∧ ∃ lo hi, m.read 4 = some lo ∧ m.read 5 = some hi ∧
          frameEnd (u16le lo hi) ≤ n ∧
          (k = 6 + (u16le lo hi).toNat ∨ k = 7 + (u16le lo hi).toNat)) := by
  unfold headerCore at h
  split at h
  · cases h
  rename_i hn
  refine ⟨Nat.le_of_not_lt hn, ?_⟩
  simp only [except_bind_error_iff, inRead_error_iff, inRead_ok_iff, Stop.raised.injEq] at h
  obtain ⟨h0, rfl⟩ | ⟨s0, h0, ⟨h1, rfl⟩ | ⟨s1, h1, h⟩⟩ := h
  · exact ⟨0, rfl, h0, .inl ⟨by decide, by simp⟩⟩
  · exact ⟨1, rfl, h1, .inl ⟨by decide, fun j hj => by interval_cases j; simp [h0]⟩⟩
  split at h
  · cases h
  simp only [except_bind_error_iff, inRead_error_iff, inRead_ok_iff, Stop.raised.injEq] at h
  obtain ⟨h2, rfl⟩ | ⟨cls, h2, ⟨h3, rfl⟩ | ⟨d, h3, ⟨h4, rfl⟩ | ⟨lo, h4, ⟨h5, rfl⟩ | ⟨hi, h5, h⟩⟩⟩⟩ := h
  · exact ⟨2, rfl, h2, .inl ⟨by decide, fun j hj => by interval_cases j <;> simp [h0, h1]⟩⟩
  · exact ⟨3, rfl, h3, .inl ⟨by decide, fun j hj => by interval_cases j <;> simp [h0, h1, h2]⟩⟩
  · exact ⟨4, rfl, h4, .inl ⟨by decide, fun j hj => by interval_cases j <;> simp [h0, h1, h2, h3]⟩⟩
  · exact ⟨5, rfl, h5, .inl ⟨by decide, fun j hj => by interval_cases j <;> simp [h0, h1, h2, h3, h4]⟩⟩
  have hsix := read_ne_none_of_fields h0 h1 h2 h3 h4 h5
  split at h
  · cases h
  rename_i hend
  simp only [except_bind_error_iff, inRead_error_iff, inRead_ok_iff, Stop.raised.injEq] at h
  have hend := Nat.le_of_not_lt hend
  obtain ⟨ha, rfl⟩ | ⟨a, -, ⟨hb, rfl⟩ | ⟨b, -, h⟩⟩ := h
  · exact ⟨_, rfl, ha, .inr ⟨hsix, lo, hi, h4, h5, hend, .inl rfl⟩⟩
  · exact ⟨_, rfl, hb, .inr ⟨hsix, lo, hi, h4, h5, hend, .inr rfl⟩⟩
  · cases h

/-- The first of the six bytes that was never written stops `HeaderCore`, past the signature if it stands after it
(R109): the other ends of `HeaderCore` read it. -/
theorem headerCore_of_unwritten_field {k : Nat} (hn : c.minBuf.bytes ≤ n) (hk : k < 6)
    (hsign : 2 ≤ k → m.startsWith [sync0, sync1]) (hw : ∀ j, j < k → m.read j ≠ none) (hnone : m.read k = none) :
    headerCore c n m = .error (.raised (.unwrittenInput k)) := by
  match hh : headerCore c n m with
  | .ok h =>
    obtain ⟨-, -, -, h0, h1, h2, h3, ⟨lo, hi, h4, h5, -⟩, -⟩ := headerCore_ok_iff.mp hh
    exact absurd hnone (read_ne_none_of_fields h0 h1 h2 h3 h4 h5 k hk)
  | .error (.failed code) =>
    obtain ⟨hsmall, -⟩ | ⟨-, s0, s1, h0, h1, ⟨hs, -⟩ | ⟨-, -, cls, d, lo, hi, h2, h3, h4, h5, -⟩⟩ :=
      headerCore_failed_iff.mp hh
    · omega
    · have hk2 : 2 ≤ k := by
        by_contra hlt
        obtain rfl | rfl : k = 0 ∨ k = 1 := by omega
        · simp [h0] at hnone
        · simp [h1] at hnone
      have hs0 : s0 = sync0 := Option.some.inj (h0.symm.trans (hsign hk2 0 _ rfl))
      have hs1 : s1 = sync1 := Option.some.inj (h1.symm.trans (hsign hk2 1 _ rfl))
      simp [hs0, hs1] at hs
    · exact absurd hnone (read_ne_none_of_fields h0 h1 h2 h3 h4 h5 k hk)
  | .error (.raised f) =>
    obtain ⟨-, k', rfl, hnone', ⟨hk', hw'⟩ | ⟨hsix, -⟩⟩ := headerCore_raised hh
    · obtain hlt | rfl | hlt := Nat.lt_trichotomy k k'
      · exact absurd hnone (hw' k hlt)
      · rfl
      · exact absurd hnone' (hw k' hlt)
    · exact absurd hnone (hsix k hk)

/-- The first checksum byte that was never written stops `HeaderCore` past its three checks (R107, R109). -/
theorem headerCore_of_unwritten_checksum {cls d lo hi : Byte} {k : Nat} (hn : c.minBuf.bytes ≤ n)
    (hm : m.startsWith [sync0, sync1, cls, d, lo, hi]) (hend : frameEnd (u16le lo hi) ≤ n)
    (hk : k = 6 + (u16le lo hi).toNat ∨ k = 7 + (u16le lo hi).toNat ∧ m.read (6 + (u16le lo hi).toNat) ≠ none)
    (hnone : m.read k = none) : headerCore c n m = .error (.raised (.unwrittenInput k)) := by
  rw [headerCore, if_neg (by omega), inRead_of_read (hm 0 _ rfl), inRead_of_read (hm 1 _ rfl)]
  simp only [except_ok_bind]
  rw [if_neg (by simp), inRead_of_read (hm 2 _ rfl), inRead_of_read (hm 3 _ rfl), inRead_of_read (hm 4 _ rfl),
    inRead_of_read (hm 5 _ rfl)]
  simp only [except_ok_bind]
  rw [if_neg (by omega)]
  obtain rfl | ⟨rfl, hw⟩ := hk
  · rw [inRead_of_unwritten hnone]
    rfl
  · obtain ⟨a, ha⟩ := Option.ne_none_iff_exists'.mp hw
    rw [inRead_of_read ha, except_ok_bind, inRead_of_unwritten hnone]
    rfl

/-- A header that raises a fault ends both decodes with that fault and nothing else written (R110, R131). -/
theorem exec_decodes_of_headerCore_raised {f : ModelFault} (hs : s.live) (hi : i = .decodeHeader ∨ i = .decodeMessage)
    (hh : headerCore s.cfg s.bufLen s.inBuf = .error (.raised f)) :
    ∃ r, exec i s = .next { s with fault := some f, rdata := r } := by
  obtain rfl | rfl := hi
  · exact ⟨none, exec_decodeHeader_of_error hs hh⟩
  · exact ⟨none, exec_decodeMessage_of_error hs (messageCore_error_iff.mpr (.inl hh))⟩

/-- Settles O21: the two lemmas on the first unwritten byte, and both decodes stop where their header does. -/
theorem unwrittenHeaderByteRaisesFault : Obligations.UnwrittenHeaderByteRaisesFault := by
  unfold Obligations.UnwrittenHeaderByteRaisesFault
  intro s i hs hn hi
  refine ⟨fun h0 => ?_, fun h0 h1 => ?_, fun k _ hk hsign hw hnone => ?_, fun c d lo hi' hm hend => ?_⟩
  · exact exec_decodes_of_headerCore_raised hs hi
      (headerCore_of_unwritten_field hn (by decide) (fun h => absurd h (by decide)) (by simp) h0)
  · exact exec_decodes_of_headerCore_raised hs hi
      (headerCore_of_unwritten_field hn (by decide) (fun h => absurd h (by decide)) (by simpa using h0) h1)
  · exact exec_decodes_of_headerCore_raised hs hi (headerCore_of_unwritten_field hn hk (fun _ => hsign) hw hnone)
  · rw [← u16leIsLowPlus256High] at hend ⊢
    exact ⟨fun ha => exec_decodes_of_headerCore_raised hs hi
        (headerCore_of_unwritten_checksum hn hm hend (.inl rfl) ha),
      fun ha hb => exec_decodes_of_headerCore_raised hs hi
        (headerCore_of_unwritten_checksum hn hm hend (.inr ⟨rfl, ha⟩) hb)⟩

/-! ### The payload -/

/-- A run of reads stops at its first byte never written (R133). -/
theorem readRun_of_unwritten {a count k : Nat} (hk : k < count) (hw : ∀ j, j < k → m.read (a + j) ≠ none)
    (hnone : m.read (a + k) = none) : readRun m a count = .error (.raised (.unwrittenInput (a + k))) := by
  cases hr : readRun m a count with
  | ok p =>
    obtain ⟨hlen, hp⟩ := readRun_ok_iff.mp hr
    have hread := hp k _ (List.getElem?_eq_getElem (hlen ▸ hk))
    simp [hnone] at hread
  | error e =>
    obtain ⟨k', -, hw', hnone', rfl⟩ := readRun_error hr
    obtain hlt | rfl | hlt := Nat.lt_trichotomy k k'
    · exact absurd hnone (hw' k hlt)
    · rfl
    · exact absurd hnone' (hw k' hlt)

/-- Settles O22: past the header and the end check, the payload's run of reads stops at its first unwritten byte. -/
theorem unwrittenPayloadByteRaisesFault : Obligations.UnwrittenPayloadByteRaisesFault := by
  unfold Obligations.UnwrittenPayloadByteRaisesFault
  intro s c d lo hi a b k hs hn hm hend hstrict ha hb hk hw hnone
  rw [← u16leIsLowPlus256High] at hend hstrict ha hb hk
  have hh := headerCore_of_frame hn hm hend ha hb
  have hp : payloadCore s.inBuf (u16le lo hi) = _ := readRun_of_unwritten hk hw hnone
  have hmsg := messageCore_error_iff.mpr (.inr ⟨_, hh, .inr ⟨fun ⟨h, hne⟩ => hne (hstrict h), hp⟩⟩)
  exact ⟨none, exec_decodeMessage_of_error hs hmsg⟩

/-! ### The faults of the spec -/

/-- `HeaderCore` raises a fault only for a byte below `buf_len` never written (R67, R210). -/
theorem headerCore_raised_below {f : ModelFault} (h : headerCore c n m = .error (.raised f)) :
    ∃ k, f = .unwrittenInput k ∧ k < n ∧ m.read k = none := by
  obtain ⟨hn, k, rfl, hnone, ⟨hk, -⟩ | ⟨-, lo, hi, -, -, hend, hk⟩⟩ := headerCore_raised h
  · have := eight_le_minBuf c.minBuf
    exact ⟨k, rfl, by omega, hnone⟩
  · unfold frameEnd at hend
    exact ⟨k, rfl, by omega, hnone⟩

/-- The decode of `DECODE_MESSAGE` raises a fault only for a byte below `buf_len` never written (R67, R210). -/
theorem messageCore_raised_below {f : ModelFault} (h : messageCore c n m = .error (.raised f)) :
    ∃ k, f = .unwrittenInput k ∧ k < n ∧ m.read k = none := by
  obtain hh | ⟨hd, hh, ⟨-, -, he⟩ | ⟨-, hp⟩⟩ := messageCore_error_iff.mp h
  · exact headerCore_raised_below hh
  · cases he
  · obtain ⟨-, -, -, -, -, -, -, -, hend, -⟩ := headerCore_ok_iff.mp hh
    obtain ⟨k, hk, -, hnone, he⟩ := readRun_error hp
    unfold frameEnd at hend
    exact ⟨6 + k, by cases he; rfl, by omega, hnone⟩

/-- The faults of a command (R210). -/
theorem fault_of_command {f : ModelFault} (hi : i.isCommand = true) (h : exec i s = .next t) (ht : t.fault = some f) :
    ∃ k, f = .unwrittenInput k ∧ k < s.bufLen ∧ s.inBuf.read k = none := by
  have hs : s.fault = none := (live_of_exec h).1
  obtain heq | heq | ⟨w, heq⟩ := exec_command_eq hi
  · obtain ⟨f', hh, rfl⟩ | ⟨code, -, rfl⟩ | ⟨hd, -, rfl⟩ := exec_decodeHeader_cases (heq s ▸ h)
    · cases ht
      exact headerCore_raised_below hh
    · simp [hs] at ht
    · simp [hs] at ht
  · obtain ⟨f', hm, rfl⟩ | ⟨code, -, rfl⟩ | ⟨hd, p, -, rfl⟩ := exec_decodeMessage_cases (heq s ▸ h)
    · cases ht
      exact messageCore_raised_below hm
    · simp [hs] at ht
    · simp [hs] at ht
  · obtain rfl := eq_finish_of_cmdReserved (heq s ▸ h)
    simp [hs] at ht

/-- In `s`, operation `i` reads at address `a` an output that is not valid (R41, R166, R173). -/
def readsInvalid (s : State) (i : Instr) (a : Addr) : Prop :=
  (encode i = .bus (lw a) ∧ s.hdr = none ∧ (a = 0x0C ∨ a = 0x10 ∨ a = 0x14 ∨ a = 0x18)) ∨
  (i = .r32PayLen ∧ s.pay = none ∧ a = 0x1C) ∨
  (∃ j, i = .r8PayBuf j ∧ encode i = .bus (lb a) ∧ s.payByte j.toNat = none)

/-- A gated read raises `F_INVALID_RESULT` of its address, and only when it has no value (R41, R211). -/
theorem fault_of_returnsValid {f : ModelFault} {a : Addr} {o : Option Word}
    (h : guarded s (s.clearRead.returnsValid a o) = .next t) (ht : t.fault = some f) :
    o = none ∧ f = .invalidResult a := by
  obtain ⟨hs, rfl⟩ := guarded_next_iff.mp h
  obtain ⟨v, -, hr⟩ | ⟨ho, hr⟩ := State.returnsValid_cases (s := s.clearRead) a o
  · simp [hr, hs.1] at ht
  · exact ⟨ho, by simpa [hr, eq_comm] using ht⟩

/-- A read that is valid in every state raises no fault. -/
theorem fault_of_returns {v : Word} (h : guarded s (s.clearRead.returns v) = .next t) : t.fault = none := by
  obtain ⟨hs, rfl⟩ := guarded_next_iff.mp h
  exact hs.1

/-- The faults of a read (R210, R211). -/
theorem fault_of_read {f : ModelFault} (hi : i.isRead = true) (h : exec i s = .next t) (ht : t.fault = some f) :
    (∃ j, i = .r8InBuf j ∧ f = .unwrittenRead j.toNat ∧ s.inBuf.read j.toNat = none) ∨
      ∃ a, f = .invalidResult a ∧ readsInvalid s i a := by
  have hs := live_of_exec h
  cases i with
  | r32Hdr0 | r32Hdr1 | r32FrameLen | r32HdrTag =>
    obtain ⟨ho, rfl⟩ := fault_of_returnsValid h ht
    exact .inr ⟨_, rfl, .inl ⟨rfl, by simpa using ho, by decide⟩⟩
  | r32PayLen =>
    obtain ⟨ho, rfl⟩ := fault_of_returnsValid h ht
    exact .inr ⟨_, rfl, .inr (.inl ⟨rfl, by simpa using ho, rfl⟩)⟩
  | r8PayBuf j =>
    by_cases hj : j.toNat < payCap
    · obtain ⟨ho, rfl⟩ := fault_of_returnsValid ((execR8PayBuf_of_lt hj).symm.trans h) ht
      exact .inr ⟨_, rfl, .inr (.inr ⟨j, rfl, rfl, by simpa using ho⟩)⟩
    · cases (execR8PayBuf_of_le hs (Nat.le_of_not_lt hj)).symm.trans h
      simp [hs.1] at ht
  | r8InBuf j =>
    by_cases hj : j.toNat < s.cfg.inCap
    · cases hv : s.inBuf.read j.toNat with
      | some v =>
        cases (execR8InBuf_of_written hs hj hv).symm.trans h
        simp [hs.1] at ht
      | none =>
        cases (execR8InBuf_of_unwritten hs hj hv).symm.trans h
        exact .inl ⟨j, rfl, (Option.some.inj ht).symm, hv⟩
    · cases (execR8InBuf_of_le hs (Nat.le_of_not_lt hj)).symm.trans h
      simp [hs.1] at ht
  | r32Cmd | r32Status | r32BufLen | r32TagArg | r32Cfg | r32Cap | r8Rsv | r32Rsv | r32RsvHi =>
    simp [fault_of_returns h] at ht
  | _ => cases hi

/-- Settles O42: only commands and reads raise a fault, and each kind raises its own. -/
theorem faultsAreThoseOfTheSpec : Obligations.FaultsAreThoseOfTheSpec := by
  unfold Obligations.FaultsAreThoseOfTheSpec
  intro i s t h
  have hall {f : ModelFault} (ht : t.fault = some f) :
      (i.isCommand = true ∧ ∃ k, f = .unwrittenInput k ∧ k < s.bufLen ∧ s.inBuf.read k = none) ∨
        (∃ j, i = .r8InBuf j ∧ f = .unwrittenRead j.toNat ∧ s.inBuf.read j.toNat = none) ∨
        ∃ a, f = .invalidResult a ∧ readsInvalid s i a := by
    have hmark : t.fault ≠ none := by simp [ht]
    obtain ⟨hi | hi, -⟩ := (Effect.of_exec h).eq_raise_of_fault (live_of_exec h).1 hmark
    · exact .inl ⟨hi, fault_of_command hi h ht⟩
    · exact .inr (fault_of_read hi h ht)
  refine ⟨fun k ht => ?_, fun k ht => ?_, fun a ht => ?_⟩
  · obtain ⟨hi, k', ⟨⟩, hk⟩ | ⟨j, -, hf, -⟩ | ⟨a, hf, -⟩ := hall ht
    · exact ⟨hi, hk⟩
    · cases hf
    · cases hf
  · obtain ⟨-, k', hf, -⟩ | ⟨j, hj, ⟨⟩, hnone⟩ | ⟨a, hf, -⟩ := hall ht
    · cases hf
    · exact ⟨j, hj, rfl, hnone⟩
    · cases hf
  · obtain ⟨-, k', hf, -⟩ | ⟨j, -, hf, -⟩ | ⟨a', ⟨⟩, hinvalid⟩ := hall ht
    · cases hf
    · cases hf
    · exact hinvalid

end Sys2Proof.Machine
end

section
/-! What the decodes depend on (R27, R67, R109, R153): two buffers that agree on the bytes that are read decode alike, and
the class byte goes into the header and nowhere else. -/

namespace Sys2Proof.Machine

variable {s t : State} {i : Instr} {c : Config} {n : Nat} {m m' : Memory}

/-! ### Two buffers that differ in the class byte -/

/-- A header with its class byte changed by `f` (R104). -/
def Header.mapClass (f : Byte → Byte) (h : Header) : Header := { h with cls := f h.cls }

@[simp] theorem Header.mapClass_len (f : Byte → Byte) (h : Header) : (h.mapClass f).len = h.len := rfl

/-- A header that keeps its class byte stays as it was. -/
theorem Header.mapClass_id : Header.mapClass (fun b => b) = fun h => h := rfl

/-- A byte that reads alike in two buffers. -/
theorem inRead_congr {k : Nat} (h : m'.read k = m.read k) : inRead m' k = inRead m k := by
  rw [inRead, inRead, h]

/-- A byte changed by `f`. -/
theorem inRead_map {k : Nat} {f : Byte → Byte} (h : m'.read k = (m.read k).map f) :
    inRead m' k = (inRead m k).map f := by
  unfold inRead
  rw [h]
  cases m.read k <;> rfl

/-- `HeaderCore` reads the offsets of R109 only, and the class byte goes into its header and nowhere else (R153): past
each check, the buffers need agree on the bytes read next alone. -/
theorem headerCore_congr (f : Byte → Byte)
    (hfields : c.minBuf.bytes ≤ n → ∀ k, k < 6 → k ≠ 2 → m'.read k = m.read k)
    (hclass : c.minBuf.bytes ≤ n → m'.read 2 = (m.read 2).map f)
    (hck : ∀ lo hi, m.read 4 = some lo → m.read 5 = some hi → frameEnd (u16le lo hi) ≤ n →
      m'.read (6 + (u16le lo hi).toNat) = m.read (6 + (u16le lo hi).toNat) ∧
      m'.read (7 + (u16le lo hi).toNat) = m.read (7 + (u16le lo hi).toNat)) :
    headerCore c n m' = (headerCore c n m).map (Header.mapClass f) := by
  unfold headerCore
  by_cases hn : n < c.minBuf.bytes
  · simp only [if_pos hn]
    rfl
  have hn' := Nat.le_of_not_lt hn
  have hf := hfields hn'
  simp only [if_neg hn, inRead_map (hclass hn'), inRead_congr (hf 0 (by decide) (by decide)),
    inRead_congr (hf 1 (by decide) (by decide)), inRead_congr (hf 3 (by decide) (by decide)),
    inRead_congr (hf 4 (by decide) (by decide)), inRead_congr (hf 5 (by decide) (by decide))]
  cases inRead m 0 with
  | error => rfl
  | ok s0 =>
  cases inRead m 1 with
  | error => rfl
  | ok s1 =>
  simp only [except_ok_bind]
  split_ifs with hs
  · rfl
  cases inRead m 2 with
  | error => rfl
  | ok cls =>
  cases inRead m 3 with
  | error => rfl
  | ok d =>
  cases h4 : inRead m 4 with
  | error => rfl
  | ok lo =>
  cases h5 : inRead m 5 with
  | error => rfl
  | ok hi =>
  simp only [except_ok_bind, Except.map]
  by_cases hend : n < frameEnd (u16le lo hi)
  · simp only [if_pos hend]
  obtain ⟨ha, hb⟩ := hck lo hi (inRead_ok_iff.mp h4) (inRead_ok_iff.mp h5) (Nat.le_of_not_lt hend)
  simp only [if_neg hend, inRead_congr ha, inRead_congr hb]
  cases inRead m (6 + (u16le lo hi).toNat) with
  | error => rfl
  | ok a => cases inRead m (7 + (u16le lo hi).toNat) <;> rfl

/-- Runs of reads over bytes that read alike are alike. -/
theorem readRun_congr {a count : Nat} (h : ∀ k, k < count → m'.read (a + k) = m.read (a + k)) :
    readRun m' a count = readRun m a count := by
  induction count generalizing a with
  | zero => rfl
  | succ count ih =>
    have hrest : readRun m' (a + 1) count = readRun m (a + 1) count :=
      ih fun k hk => by simpa [Nat.add_assoc, Nat.add_comm 1 k] using h (k + 1) (by omega)
    have hfirst : inRead m' a = inRead m a := inRead_congr (h 0 (by omega))
    rw [readRun, readRun, hfirst, hrest]

/-- The header and the payload of a message, with the class byte changed by `f`. -/
def mapMessageClass {α : Type} (f : Byte → Byte) (r : Header × α) : Header × α := (r.1.mapClass f, r.2)

/-- Where the headers decode alike and the payload bytes read alike, so do the messages (R130 to R133). -/
theorem messageCore_congr (f : Byte → Byte) (hh : headerCore c n m' = (headerCore c n m).map (Header.mapClass f))
    (hp : ∀ h, headerCore c n m = .ok h → ∀ k, k < h.len.toNat → m'.read (6 + k) = m.read (6 + k)) :
    messageCore c n m' = (messageCore c n m).map (mapMessageClass f) := by
  unfold messageCore
  rw [hh]
  cases hok : headerCore c n m with
  | error => rfl
  | ok h =>
    have hpay : payloadCore m' h.len = payloadCore m h.len := readRun_congr (hp h hok)
    simp only [Except.map, except_ok_bind, Header.mapClass_len, hpay]
    split_ifs
    · rfl
    · cases payloadCore m h.len <;> rfl

/-! ### The states that two commands leave -/

/-- What `s` and `t` hold after the same command: one fault and, past a fault, one end of the command, with the class
byte of a header changed by `f`. -/
def agreeAfter (f : Byte → Byte) (s t : State) : Prop :=
  t.fault = s.fault ∧ (s.fault = none → t.result = s.result ∧ t.lastOp = s.lastOp ∧ t.pay = s.pay ∧
    t.hdr = s.hdr.map (Header.mapClass f))

/-- Two commits of one result, but for the class byte. -/
theorem agreeAfter_commit (f : Byte → Byte) (hs : s.live) (ht : t.live) (op : BitVec 4)
    (r : Except Stop (Header × Option (List Byte))) :
    agreeAfter f (s.clearRead.commit op r) (t.clearRead.commit op (r.map (mapMessageClass f))) := by
  obtain ⟨x, rfl, hr⟩ | ⟨code, rfl, hr⟩ | ⟨hd, p, rfl, hr⟩ := State.commit_cases (s := s.clearRead) op r
  · simp [agreeAfter, State.commit, Except.map]
  · simp [agreeAfter, State.commit, Except.map, hs.1, ht.1]
  · simp [agreeAfter, State.commit, Except.map, mapMessageClass, hs.1, ht.1]

/-- In a live state `DECODE_HEADER` commits its header and no payload (R110). -/
theorem exec_decodeHeader_of_live (hs : s.live) : exec .decodeHeader s =
    .next (s.clearRead.commit 1 ((headerCore s.cfg s.bufLen s.inBuf).map fun h => (h, none))) :=
  hostStep_of_live hs fun s => s.commit 1 ((headerCore s.cfg s.bufLen s.inBuf).map fun h => (h, none))

/-- In a live state `DECODE_MESSAGE` commits its header and its payload (R134). -/
theorem exec_decodeMessage_of_live (hs : s.live) : exec .decodeMessage s =
    .next (s.clearRead.commit 2 ((messageCore s.cfg s.bufLen s.inBuf).map fun r => (r.1, some r.2))) :=
  hostStep_of_live hs fun s =>
    s.commit 2 ((messageCore s.cfg s.bufLen s.inBuf).map fun r : Header × List Byte => (r.1, some r.2))

/-- `DECODE_HEADER` from two live states whose headers decode alike. -/
theorem exec_decodeHeader_congr (f : Byte → Byte) (hs : s.live) (ht : t.live)
    (hh : headerCore t.cfg t.bufLen t.inBuf = (headerCore s.cfg s.bufLen s.inBuf).map (Header.mapClass f)) :
    ∃ s' t', exec .decodeHeader s = .next s' ∧ exec .decodeHeader t = .next t' ∧ agreeAfter f s' t' := by
  refine ⟨_, _, exec_decodeHeader_of_live hs, exec_decodeHeader_of_live ht, ?_⟩
  convert agreeAfter_commit f hs ht 1 ((headerCore s.cfg s.bufLen s.inBuf).map fun h => (h, none)) using 2
  rw [hh]
  cases headerCore s.cfg s.bufLen s.inBuf <;> rfl

/-- `DECODE_MESSAGE` from two live states whose messages decode alike. -/
theorem exec_decodeMessage_congr (f : Byte → Byte) (hs : s.live) (ht : t.live)
    (hm : messageCore t.cfg t.bufLen t.inBuf = (messageCore s.cfg s.bufLen s.inBuf).map (mapMessageClass f)) :
    ∃ s' t', exec .decodeMessage s = .next s' ∧ exec .decodeMessage t = .next t' ∧ agreeAfter f s' t' := by
  refine ⟨_, _, exec_decodeMessage_of_live hs, exec_decodeMessage_of_live ht, ?_⟩
  convert agreeAfter_commit f hs ht 2 ((messageCore s.cfg s.bufLen s.inBuf).map fun r => (r.1, some r.2)) using 2
  rw [hm]
  cases messageCore s.cfg s.bufLen s.inBuf <;> rfl

/-- `CMD_RESERVED` reads nothing (R81). -/
theorem exec_cmdReserved_congr (f : Byte → Byte) (hs : s.live) (ht : t.live) (w : Word) :
    ∃ s' t', exec (.cmdReserved w) s = .next s' ∧ exec (.cmdReserved w) t = .next t' ∧ agreeAfter f s' t' :=
  ⟨_, _, exec_cmdReserved_of_live hs w, exec_cmdReserved_of_live ht w,
    agreeAfter_commit f hs ht (w.extractLsb' 0 4) (.error (.failed .cmdError))⟩

/-- A command from two live states that agree below `BUF_LEN`, but for a class byte changed by `f`. -/
theorem exec_command_congr (f : Byte → Byte) (hi : i.isCommand = true) (hs : s.live) (ht : t.live)
    (hcfg : t.cfg = s.cfg) (hlen : t.bufLen = s.bufLen)
    (hread : ∀ k, k < s.bufLen → k ≠ 2 → t.inBuf.read k = s.inBuf.read k)
    (hclass : 2 < s.bufLen → t.inBuf.read 2 = (s.inBuf.read 2).map f) :
    ∃ s' t', exec i s = .next s' ∧ exec i t = .next t' ∧ agreeAfter f s' t' := by
  have hmin := eight_le_minBuf s.cfg.minBuf
  have hh : headerCore s.cfg s.bufLen t.inBuf = (headerCore s.cfg s.bufLen s.inBuf).map (Header.mapClass f) := by
    refine headerCore_congr f (fun hn k hk hk2 => hread k (by omega) hk2) (fun hn => hclass (by omega))
      fun lo hi _ _ hend => ?_
    unfold frameEnd at hend
    exact ⟨hread _ (by omega) (by omega), hread _ (by omega) (by omega)⟩
  obtain heq | heq | ⟨w, heq⟩ := exec_command_eq hi
  · simp only [heq]
    exact exec_decodeHeader_congr f hs ht (by rw [hcfg, hlen, hh])
  · simp only [heq]
    refine exec_decodeMessage_congr f hs ht ?_
    rw [hcfg, hlen]
    refine messageCore_congr f hh fun h hok k hk => ?_
    obtain ⟨-, -, -, -, -, -, -, -, hend, -⟩ := headerCore_ok_iff.mp hok
    unfold frameEnd at hend
    exact hread _ (by omega) (by omega)
  · simp only [heq]
    exact exec_cmdReserved_congr f hs ht w

/-- Settles O30: `exec_command_congr`, with the class byte left as it is. -/
theorem commandsSeeOnlyBytesBelowBufLen : Obligations.CommandsSeeOnlyBytesBelowBufLen := by
  unfold Obligations.CommandsSeeOnlyBytesBelowBufLen
  intro i s t hi hs ht hcfg hlen hread
  obtain ⟨s', t', hs', ht', hfault, hagree⟩ :=
    exec_command_congr (fun b => b) hi hs ht hcfg hlen (fun k hk _ => hread k hk) (by simpa using hread 2)
  refine ⟨s', t', hs', ht', hfault, fun hnone => ?_⟩
  obtain ⟨hresult, hop, hpay, hhdr⟩ := hagree hnone
  exact ⟨hresult, hop, by simpa [Header.mapClass_id] using hhdr, hpay⟩

/-- Settles O31: `headerCore_congr`, with the class byte left as it is. -/
theorem headerReadsOnlyListedOffsets : Obligations.HeaderReadsOnlyListedOffsets := by
  unfold Obligations.HeaderReadsOnlyListedOffsets
  intro s t hs ht hcfg hlen hread hck
  have hh : headerCore s.cfg s.bufLen t.inBuf = _ :=
    headerCore_congr (fun b => b) (fun _ k hk _ => hread k hk) (fun _ => by simpa using hread 2 (by decide))
      fun lo hi h4 h5 _ => by
        rw [u16leIsLowPlus256High]
        exact hck lo hi h4 h5
  obtain ⟨s', t', hs', ht', hfault, hagree⟩ :=
    exec_decodeHeader_congr (fun b => b) hs ht (by rw [hcfg, hlen, hh])
  refine ⟨s', t', hs', ht', hfault, fun hnone => ?_⟩
  obtain ⟨hresult, -, -, hhdr⟩ := hagree hnone
  exact ⟨hresult, by simpa [Header.mapClass_id] using hhdr⟩

/-- Settles O32: `exec_command_congr`, with the class byte changed to `c`. -/
theorem classByteNeverGatesDecoding : Obligations.ClassByteNeverGatesDecoding := by
  unfold Obligations.ClassByteNeverGatesDecoding
  intro i s t c hi hs ht hcfg hlen hread hs2 ht2
  obtain ⟨b, hb⟩ := Option.ne_none_iff_exists'.mp hs2
  exact exec_command_congr (fun _ => c) hi hs ht hcfg hlen (fun k _ hk => hread k hk) fun _ => by simp [hb, ht2]

/-! ### A command issued twice -/

/-- A command commits a result that depends on the parameters, `BUF_LEN` and `IN_BUF` alone (R108, R110, R134). -/
theorem exec_command_eq_commit (hi : i.isCommand = true) :
    ∃ (op : BitVec 4) (D : Config → Nat → Memory → Except Stop (Header × Option (List Byte))),
      ∀ s : State, s.live → exec i s = .next (s.clearRead.commit op (D s.cfg s.bufLen s.inBuf)) := by
  obtain heq | heq | ⟨w, heq⟩ := exec_command_eq hi
  · exact ⟨1, fun c n m => (headerCore c n m).map fun h => (h, none), fun s hs =>
      (heq s).trans (exec_decodeHeader_of_live hs)⟩
  · exact ⟨2, fun c n m => (messageCore c n m).map fun r => (r.1, some r.2), fun s hs =>
      (heq s).trans (exec_decodeMessage_of_live hs)⟩
  · exact ⟨w.extractLsb' 0 4, fun _ _ _ => .error (.failed .cmdError), fun s hs =>
      (heq s).trans (exec_cmdReserved_of_live hs w)⟩

/-- A result that raised no fault is committed a second time to the same state. -/
theorem State.commit_again {op : BitVec 4} {r : Except Stop (Header × Option (List Byte))}
    (h : (s.commit op r).fault = none) : (s.commit op r).clearRead.commit op r = (s.commit op r).clearRead := by
  obtain ⟨f, rfl, -⟩ | ⟨code, rfl, -⟩ | ⟨hd, p, rfl, -⟩ := State.commit_cases (s := s) op r
  · simp [State.commit] at h
  · rfl
  · rfl

/-- Settles O29: the command leaves what it depends on as it was (O28), so it commits the same result again. -/
theorem commandsAreIdempotent : Obligations.CommandsAreIdempotent := by
  unfold Obligations.CommandsAreIdempotent
  intro i s t hi h ht
  obtain ⟨hmem, hlen, -, hcfg, -⟩ := commandsLeaveTheInputAlone i s t hi h
  obtain ⟨op, D, hD⟩ := exec_command_eq_commit hi
  have hcommit : s.clearRead.commit op (D s.cfg s.bufLen s.inBuf) = t := by
    simpa [hD s (live_of_exec h)] using h
  have hagain : exec i t = .next t.clearRead := by
    rw [hD t ht, hmem, hlen, hcfg]
    subst hcommit
    rw [State.commit_again ht.1]
  exact ⟨none, hagain⟩

end Sys2Proof.Machine
end

section
/-! Runs of the host's operations: the use sequence of a frame (R233), the pseudo-instructions (R85), and a byte of
`IN_BUF` read back (R60). -/

namespace Sys2Proof.Machine

variable {s t u : State}

/-! ### Safe runs -/

/-- A safe run goes on from where one ended. -/
theorem safeRun_trans {j k : Nat} (h : safeRun j s t) (h' : safeRun k t u) : safeRun (j + k) s u := by
  induction j generalizing s with
  | zero =>
    obtain ⟨rfl, -⟩ := h
    simpa using h'
  | succ j ih =>
    obtain ⟨v, hstep, hrun⟩ := h
    rw [Nat.add_right_comm]
    exact ⟨v, hstep, ih hrun⟩

/-- A safe run ends in a live state. -/
theorem live_of_safeRun {k : Nat} (h : safeRun k s t) : t.live := by
  induction k generalizing s with
  | zero => exact h.1 ▸ h.2
  | succ k ih =>
    obtain ⟨u, -, hrun⟩ := h
    exact ih hrun

/-- A well-formed operation that is presented and leaves a live state is a safe run of one step: it is the operation
that it decodes to (R20, R80, R82). -/
theorem safeRun_of_exec {i : Instr} (hi : i.wf = true) {rest : List HostInput} (hin : s.inputs = .op (encode i) :: rest)
    (h : exec i (s.setInputs rest) = .next t) (ht : t.live) : safeRun 1 s t := by
  refine ⟨t, ?_, rfl, ht⟩
  rw [step_of_inputs hin, decodeOfEncodeIsIdentity i hi, h]

/-! ### The pseudo-instructions that read (R85) -/

/-- Settles O36: `tag` writes and reads `TAG_ARG` (O47, O48), `result` reads `STATUS` (O44); the fields that they keep
are `CODE` and `RESULT`. -/
theorem pseudoInstructionsReturnTheirFields : Obligations.PseudoInstructionsReturnTheirFields := by
  unfold Obligations.PseudoInstructionsReturnTheirFields
  constructor
  · intro s v hs hin
    obtain ⟨d, hwrite⟩ := tagArgWriteStoresLowByte (s.setInputs (presented [lw 0x20])) v hs
    have hfirst := safeRun_of_exec (i := .w32TagArg v) rfl hin hwrite hs
    obtain ⟨w, hread, -, hcode, -⟩ := tagArgReadReturnsArgAndCode
      (State.setInputs { s.setInputs (presented [lw 0x20]) with tagArg := v.extractLsb' 0 8, rdata := d } []) hs
    have hsecond := safeRun_of_exec (i := .r32TagArg) rfl rfl hread hs
    exact ⟨_, w, safeRun_trans hfirst hsecond, rfl, congrArg (BitVec.setWidth 32) hcode⟩
  · intro s hs hin
    have hread := hostStep_returns_of_live (s := s.setInputs []) hs State.statusWord
    obtain ⟨hresult, -⟩ := s.statusWord_fields
    exact ⟨_, s.statusWord, safeRun_of_exec (i := .r32Status) rfl hin hread hs, rfl,
      congrArg (BitVec.setWidth 32) hresult⟩

/-! ### The use sequence (R233) -/

/-- The address `IN+i` of an index inside the window (R84). -/
theorem inAddr_eq_byteAddr {k : Nat} (hk : k < 131072) : inAddr k = byteAddr .inBuf (BitVec.ofNat 17 k) := by
  rw [← BitVec.toNat_inj, byteAddr_toNat, inAddr]
  simp only [Region.base, BitVec.toNat_ofNat]
  omega

/-- The byte that `sb` writes is the byte that it was given (R84). -/
theorem extractLsb'_setWidth_byte (b : Byte) : (b.setWidth 32 : Word).extractLsb' 0 8 = b := by
  rw [← BitVec.toNat_inj]
  simp only [BitVec.extractLsb'_toNat, BitVec.toNat_setWidth, Nat.shiftRight_zero]
  omega

/-- The first byte of `load.in` is one safe step that writes it (R85, R171). -/
theorem safeRun_loadIn_first {k : Nat} {b : Byte} {bs : List Byte} {rest : List HostInput} (hs : s.live)
    (hcap : s.cfg.inCap ≤ 131072) (hk : k < s.cfg.inCap)
    (hin : s.inputs = presented (loadIn k (b :: bs)) ++ rest) :
    ∃ t, safeRun 1 s t ∧ t.inputs = presented (loadIn (k + 1) bs) ++ rest ∧ t.cfg = s.cfg ∧
      t.inBuf = s.inBuf.write k b := by
  have htoNat : (BitVec.ofNat 17 k).toNat = k := by
    rw [BitVec.toNat_ofNat, Nat.mod_eq_of_lt (by omega)]
  have hin' : s.inputs = .op (encode (.w8InBuf (BitVec.ofNat 17 k) (b.setWidth 32))) ::
      (presented (loadIn (k + 1) bs) ++ rest) := by
    rw [encode, ← inAddr_eq_byteAddr (by omega), hin]
    rfl
  have hwrite := execW8InBuf_of_lt (s := s.setInputs (presented (loadIn (k + 1) bs) ++ rest))
    (i := BitVec.ofNat 17 k) (w := b.setWidth 32) hs (htoNat.trans_lt hk)
  refine ⟨_, safeRun_of_exec rfl hin' hwrite hs, rfl, rfl, ?_⟩
  simp only [htoNat, extractLsb'_setWidth_byte, State.setInputs_inBuf]

/-- `load.in` is a safe run, one step for each byte, that leaves the bytes in `IN_BUF` and those before them as they
were (R85). -/
theorem safeRun_loadIn {k : Nat} {bs : List Byte} {rest : List HostInput} (hs : s.live)
    (hcap : s.cfg.inCap ≤ 131072) (hfit : k + bs.length ≤ s.cfg.inCap)
    (hin : s.inputs = presented (loadIn k bs) ++ rest) :
    ∃ t, safeRun bs.length s t ∧ t.inputs = rest ∧ t.cfg = s.cfg ∧
      (∀ j v, bs[j]? = some v → t.inBuf.read (k + j) = some v) ∧ ∀ j, j < k → t.inBuf.read j = s.inBuf.read j := by
  induction bs generalizing s k with
  | nil => exact ⟨s, ⟨rfl, hs⟩, hin, rfl, by simp, fun _ _ => rfl⟩
  | cons b bs ih =>
    rw [List.length_cons] at hfit
    obtain ⟨u, hfirst, huin, hucfg, humem⟩ := safeRun_loadIn_first hs hcap (by omega) hin
    obtain ⟨t, hrun, htin, htcfg, hbytes, hframe⟩ :=
      ih (s := u) (k := k + 1) (live_of_safeRun hfirst) (hucfg ▸ hcap) (by rw [hucfg]; omega) huin
    refine ⟨t, ?_, htin, htcfg.trans hucfg, fun j v hj => ?_, fun j hj => ?_⟩
    · rw [List.length_cons, Nat.add_comm]
      exact safeRun_trans hfirst hrun
    · cases j with
      | zero =>
        obtain rfl : b = v := by simpa using hj
        rw [Nat.add_zero, hframe k (by omega), humem, Memory.read_write_same]
      | succ j =>
        rw [show k + (j + 1) = k + 1 + j by omega]
        exact hbytes j v (by simpa using hj)
    · rw [hframe j (by omega), humem, Memory.read_write_other _ _ (by omega)]

/-- A frame is eight bytes longer than its payload (R71). -/
theorem frameBytes_length (c d : Byte) (p : List Byte) (a b : Byte) : (frameBytes c d p a b).length = p.length + 8 := by
  simp [frameBytes]

/-- `setlen N` is a safe step that sets `BUF_LEN`, for an `N` up to `IN_CAP` (R85, R163). -/
theorem safeRun_setLen {n : Nat} {rest : List HostInput} (hs : s.live) (hcap : s.cfg.inCap ≤ 131072)
    (hn : n ≤ s.cfg.inCap) (hin : s.inputs = presented [setLen n] ++ rest) :
    ∃ t, safeRun 1 s t ∧ t.inputs = rest ∧ t.cfg = s.cfg ∧ t.bufLen = n ∧ t.inBuf = s.inBuf := by
  have htoNat : (BitVec.ofNat 32 n).toNat = n := by
    rw [BitVec.toNat_ofNat, Nat.mod_eq_of_lt (by omega)]
  have hwrite := execW32BufLen_of_le (s := s.setInputs rest) (w := BitVec.ofNat 32 n) hs (htoNat.trans_le hn)
  exact ⟨_, safeRun_of_exec (i := .w32BufLen _) rfl hin hwrite hs, rfl, rfl, htoNat, rfl⟩

/-- Settles O35: the bytes of the frame, its length and `decode.m` are three safe runs, and the last decodes the frame
(O34). -/
theorem loadedFrameDecodes : Obligations.LoadedFrameDecodes := by
  unfold Obligations.LoadedFrameDecodes
  intro s c d a b p hs ⟨_, hcap⟩ hp hmin hfit hin
  have hin' : s.inputs = presented (loadIn 0 (frameBytes c d p a b)) ++
      (presented [setLen (8 + p.length)] ++ presented [decodeM]) := by
    rw [hin, presented, List.map_append]
    rfl
  obtain ⟨s₁, hload, hin₁, hcfg₁, hbytes, -⟩ :=
    safeRun_loadIn hs hcap (by rw [frameBytes_length]; omega) hin'
  obtain ⟨s₂, hset, hin₂, hcfg₂, hlen₂, hmem₂⟩ :=
    safeRun_setLen (live_of_safeRun hload) (hcfg₁ ▸ hcap) (hcfg₁ ▸ hfit) hin₁
  have hframe : s₂.inBuf.startsWith (frameBytes c d p a b) := by
    rw [hmem₂]
    intro j v hj
    simpa using hbytes j v hj
  have hlive₂ := live_of_safeRun hset
  obtain ⟨h, rfl, -, hmessage⟩ := frameRoundTrip (s₂.setInputs []) c d a b p hlive₂ hp hframe hlen₂
    (by rw [State.setInputs_cfg, hcfg₂, hcfg₁, State.setInputs_bufLen, hlen₂]; exact hmin)
  obtain ⟨r, hdecode⟩ := hmessage (.w32Cmd 0x2) (.inr rfl)
  have hrun := safeRun_trans (safeRun_trans hload hset) (safeRun_of_exec (i := .w32Cmd 0x2) rfl hin₂ hdecode hlive₂)
  rw [frameBytes_length] at hrun
  exact ⟨_, hrun, rfl, hlen₂, rfl, rfl, rfl, rfl⟩

/-! ### A byte of IN_BUF read back -/

/-- A write to `IN_BUF` records no mark (R171, R175). -/
theorem live_of_w8InBuf {i : BitVec 17} {w : Word} (h : exec (.w8InBuf i w) s = .next t) : t.live := by
  obtain ⟨hs, rfl⟩ := hostStep_next_iff.mp h
  split_ifs
  · exact hs
  · exact hs

/-- Settles O57: the first write sets the byte (O55), the second changes no byte but its own (O39), and the read returns
the byte that it finds (O56). -/
theorem inBufReadsBackWhatWasWritten : Obligations.InBufReadsBackWhatWasWritten := by
  unfold Obligations.InBufReadsBackWhatWasWritten
  intro s t u i j v w hi hj ht hu
  obtain ⟨m, d, hwrite, hbyte, -⟩ := inBufWriteSetsOneByte s i v (live_of_exec ht) hi
  cases hwrite.symm.trans ht
  obtain ⟨hcfg, -, -, -, hwriter⟩ := eachInputHasOneWriter _ _ _ hu
  have hkept : u.inBuf.read i.toNat = m.read i.toNat := by
    by_contra hne
    obtain ⟨_, _, ⟨⟩, hij⟩ := hwriter i.toNat hne
    exact hj (BitVec.eq_of_toNat_eq hij)
  obtain ⟨hreturns, -⟩ := inBufReadReturnsByteOrFaults u i (live_of_w8InBuf hu) (by rwa [hcfg])
  exact hreturns _ (hkept.trans hbyte)

end Sys2Proof.Machine
end

section
/-! The registers of a valid output (R32 to R34, R37, R38, R166), and the registers after reset (R44). -/

namespace Sys2Proof.Machine

variable {s : State}

/-- In a live state a gated read that has a value returns it and changes nothing else (R41). -/
theorem hostStep_returnsValid_of_valid (hs : s.live) (a : Addr) (o : State → Option Word) {v : Word}
    (ho : o s.clearRead = some v) :
    hostStep s (fun s => s.returnsValid a (o s)) = .next { s with rdata := some v } := by
  rw [hostStep_of_live hs, ho]
  rfl

/-- A register of a valid header returns its word (R166). -/
theorem hostStep_headerField_of_valid {h : Header} (hs : s.live) (hhdr : s.hdr = some h) (a : Addr) (f : Header → Word) :
    hostStep s (fun s => s.returnsValid a (s.hdr.map f)) = .next { s with rdata := some (f h) } :=
  hostStep_returnsValid_of_valid hs a (fun s => s.hdr.map f) (by simp [hhdr])

/-- The fields of `HDR0`, from bit 0 up (R32). -/
theorem Header.word0_fields (h : Header) : h.word0.extractLsb' 0 8 = h.sync0 ∧ h.word0.extractLsb' 8 8 = h.sync1 ∧
    h.word0.extractLsb' 16 8 = h.cls ∧ h.word0.extractLsb' 24 8 = h.id := by
  simp [-Nat.reduceAdd, Header.word0, extract_append_high, extract_append_all]

/-- The fields of `HDR1`, from bit 0 up (R33). -/
theorem Header.word1_fields (h : Header) : h.word1.extractLsb' 0 16 = h.len ∧ h.word1.extractLsb' 16 8 = h.ckA ∧
    h.word1.extractLsb' 24 8 = h.ckB := by
  simp [-Nat.reduceAdd, Header.word1, extract_append_high, extract_append_all]

/-- `FRAME_LEN` is the frame boundary: the greatest fits its 17 bits (R34). -/
theorem Header.frameLenWord_toNat (h : Header) : h.frameLenWord.toNat = 8 + h.len.toNat := by
  have := h.len.isLt
  rw [Header.frameLenWord, zero_append_toNat, BitVec.toNat_ofNat, frameEnd, Nat.mod_eq_of_lt (by omega)]

/-- The fields of `HDR_TAG` (R37). -/
theorem Header.tagWord_fields (h : Header) :
    h.tagWord.extractLsb' 0 4 = classTag h.cls ∧ h.tagWord.extractLsb' 4 28 = 0 := by
  simp [-Nat.reduceAdd, Header.tagWord, extract_append_high, extract_append_all]

/-- Settles O51: each of the four reads returns its word of the header, whose fields are those of the lemmas before. -/
theorem headerRegistersReturnTheirFields : Obligations.HeaderRegistersReturnTheirFields := by
  unfold Obligations.HeaderRegistersReturnTheirFields
  intro s h hs hhdr
  exact ⟨⟨h.word0, hostStep_headerField_of_valid hs hhdr 0x0C Header.word0, h.word0_fields⟩,
    ⟨h.word1, hostStep_headerField_of_valid hs hhdr 0x10 Header.word1, h.word1_fields⟩,
    ⟨h.frameLenWord, hostStep_headerField_of_valid hs hhdr 0x14 Header.frameLenWord, h.frameLenWord_toNat⟩,
    ⟨h.tagWord, hostStep_headerField_of_valid hs hhdr 0x18 Header.tagWord, h.tagWord_fields⟩⟩

/-- `PAY_LEN` is the payload's length: the greatest fits its 16 bits (R28, R38). -/
theorem payLenWord_toNat {p : List Byte} (hp : p.length ≤ 65535) : (payLenWord p).toNat = p.length := by
  rw [payLenWord, zero_append_toNat, BitVec.toNat_ofNat, Nat.mod_eq_of_lt (by omega)]

/-- Settles O52: the read of a valid payload's length returns `payLenWord`. -/
theorem payLenReadReturnsLength : Obligations.PayLenReadReturnsLength := by
  unfold Obligations.PayLenReadReturnsLength
  intro s p hs hpay hp
  exact ⟨payLenWord p, hostStep_returnsValid_of_valid hs 0x1C (fun s => s.pay.map payLenWord) (by simp [hpay]),
    payLenWord_toNat hp⟩

/-- Settles O12: the parameter reads at the defaults (O50), the read of `CMD` (O43), and the words of `STATUS`,
`BUF_LEN` and `TAG_ARG` at their reset values. -/
theorem registersReadAfterReset : Obligations.RegistersReadAfterReset := by
  have hs : State.reset.live := ⟨rfl, rfl⟩
  obtain ⟨hcfg, hcap⟩ := parameterReadsReturnThem.2 State.reset hs rfl
  exact ⟨hostStep_returns_of_live hs State.statusWord, hostStep_returns_of_live hs State.bufLenWord,
    hostStep_returns_of_live hs State.tagArgWord, hcfg, hcap, cmdReadReturnsZero State.reset hs⟩

end Sys2Proof.Machine
end
